-- ==== Sys2Proof/Word.lean ====
section
/-! DEFINITION. The words the block handles: the event word (30_encoding.md R60), a byte, a note number, a phase
(00_scope.md R8), and the two recognised status bytes (00_scope.md R5). -/

namespace Sys2Proof

/-- A u8 (00_scope.md R8). -/
abbrev Byte := BitVec 8

/-- A 9-bit event word `EV[8:0]` (30_encoding.md R60). -/
abbrev EventWord := BitVec 9

/-- A note number, `b[6:0]` of a data byte (30_encoding.md R63). -/
abbrev Note := BitVec 7

/-- A u16 phase or phase increment; its addition is `+16` of 00_scope.md R8. -/
abbrev Phase := BitVec 16

/-- The status byte that selects Note-On: fixed, not a parameter (00_scope.md R5). -/
abbrev noteOnStatus : Byte := 0x90#8

/-- The status byte that selects Note-Off: fixed, not a parameter (00_scope.md R5). -/
abbrev noteOffStatus : Byte := 0x80#8

end Sys2Proof
end

