-- ==== Sys2Proof/Config.lean ====
section
/-! DEFINITION. The implementation parameters of 00_scope.md R5, the default mixer shift, and the one free value. -/

namespace Sys2Proof

/-- A configuration of the block (00_scope.md R5). It is fixed before reset and cannot change while the block
runs (10_state.md R31). `noteOnStatus` and `noteOffStatus` are constants, "not free parameters". -/
structure Config where
  /-- `N`, the polyphony limit -/
  n : Nat
  /-- `MAX_TABLE`, the largest wavetable index -/
  maxTable : Nat
  /-- `WT`, the Wavetable Set, table by table -/
  wt : List (List Byte)
  /-- `PITCH`, note number to `step` -/
  pitch : List Phase
  /-- `MIX_SHIFT`, the right shift applied to the voice sum -/
  mixShift : Nat
  /-- `DC_LIMIT`, the modulus of the data count, or none -/
  dcLimit : Option Nat
  /-- `F_TICK` in Hz, read by no rule. DESIGN CHOICE, safe: a rational stands for the positive real (log 8). -/
  fTick : Rat
  deriving DecidableEq, Repr

/-- `ceil(log2 n)`, the value 00_scope.md R5 gives `MIX_SHIFT` for `N = n`. -/
def ceilLog2 (n : Nat) : Nat :=
  if n ≤ 1 then 0 else Nat.log2 (n - 1) + 1

/-- The value of `d mod 0`, for which 00_scope.md R8 gives none: a FREE VALUE, applied to `d`. It is reached only
when `DC_LIMIT = some 0`, which 00_scope.md R6 does not exclude. DESIGN CHOICE, safe (log 6). -/
opaque Config.freeModZero : Nat → Nat

end Sys2Proof
end

