-- ==== Sys2Proof/Syntax.lean ====
section
/-! DEFINITION. The events the block accepts, one constructor for each row of spec/opcode_table.json
(00_scope.md R2, 30_encoding.md R60 to R64). -/

namespace Sys2Proof

/-- An event of the block, with the operand bits its encoding leaves free. -/
inductive Instr where
  /-- `ST_NOTE_ON`: the byte 0x90 (43_midi_parser.md R131). -/
  | stNoteOn
  /-- `ST_NOTE_OFF`: the byte 0x80 (43_midi_parser.md R132). -/
  | stNoteOff
  /-- `ST_OTHER`: any other status byte, `sel` its low seven bits (43_midi_parser.md R133). -/
  | stOther (sel : BitVec 7)
  /-- `DATA`: a data byte, `b` its value (43_midi_parser.md R134, 30_encoding.md R63). -/
  | data (b : Note)
  /-- `TICK`: `low` is `EV[7:0]`, "ignored; canonical value 0" (41_oscillator_mixer.md R90, 30_encoding.md R60). -/
  | tick (low : Byte)
  deriving DecidableEq, Repr

end Sys2Proof
end

