-- ==== Sys2Proof/WellFormed.lean ====
section
/-! DEFINITION. What a well-formed event is (30_encoding.md R62) and what a well-formed configuration is
(00_scope.md R6), one named check for each condition. -/

namespace Sys2Proof

/-- `ST_OTHER` excludes the two recognised status bytes (30_encoding.md R62); every other operand is free. -/
def Instr.wf : Instr → Bool
  | .stNoteOn => true
  | .stNoteOff => true
  | .stOther sel => sel != 0x00#7 && sel != 0x10#7
  | .data _ => true
  | .tick _ => true

namespace Config

/-- 00_scope.md R6 condition 1: `N >= 1`. -/
def hasVoice (c : Config) : Bool := decide (1 ≤ c.n)

/-- 00_scope.md R6 condition 2: `MAX_TABLE <= 32766`. -/
def tableBound (c : Config) : Bool := decide (c.maxTable ≤ 32766)

/-- 00_scope.md R6 condition 3: exactly `MAX_TABLE + 1` tables (the entries are bytes by their type). -/
def tableCount (c : Config) : Bool := decide (c.wt.length = c.maxTable + 1)

/-- 00_scope.md R6 condition 3: each table has exactly 256 entries. -/
def tableSizes (c : Config) : Bool := c.wt.all fun t => decide (t.length = 256)

/-- 00_scope.md R6 condition 4: exactly 128 pitch entries (u16 by their type, 0 included). -/
def pitchSize (c : Config) : Bool := decide (c.pitch.length = 128)

/-- 00_scope.md R6 condition 5: the largest sum, shifted, fits a sample. -/
def mixFits (c : Config) : Bool := decide ((c.n * 255) >>> c.mixShift ≤ 255)

/-- 00_scope.md R5's type of `F_TICK`: positive. -/
def tickPositive (c : Config) : Bool := decide (0 < c.fTick)

/-- A well-formed configuration: all of 00_scope.md R6, and R5's type of `F_TICK`. -/
def wf (c : Config) : Bool :=
  c.hasVoice && c.tableBound && c.tableCount && c.tableSizes && c.pitchSize && c.mixFits && c.tickPositive

end Config

end Sys2Proof
end

