-- ==== Sys2Proof/Decode.lean ====
section
/-! DEFINITION. The event decoder (30_encoding.md R60 to R65), total on event words, the encoder beside it, and the
opcode rows of the byte map (30_encoding.md R64). -/

namespace Sys2Proof

/-- Why a bit string is no event. The 512 event words themselves all decode (30_encoding.md R65). -/
inductive DecodeError where
  /-- A bit above `EV[8]` is set: the event word has nine bits (30_encoding.md R60). Safe. -/
  | notAnEventWord
  deriving DecidableEq, Repr

/-- `EV[8]`: 1 is TICK, 0 is BYTE (30_encoding.md R60). -/
def portBit (ev : EventWord) : Bool := ev.getLsbD 8

/-- `EV[7:0]`, the byte delivered (30_encoding.md R60). -/
def byteOf (ev : EventWord) : Byte := ev.extractLsb' 0 8

/-- A status byte has bit 7 set (30_encoding.md R61). -/
def isStatusByte (b : Byte) : Bool := b.getLsbD 7

/-- `b[6:0]`, a data byte's value (30_encoding.md R63). -/
def lowSeven (b : Byte) : Note := b.extractLsb' 0 7

/-- The class of a byte: a status byte "by exact equality" with the two recognised values (30_encoding.md R62),
otherwise data. -/
def decodeByte (b : Byte) : Instr :=
  if isStatusByte b then
    if b = noteOnStatus then .stNoteOn
    else if b = noteOffStatus then .stNoteOff
    else .stOther (lowSeven b)
  else .data (lowSeven b)

/-- The decoder: every event word is exactly one event (30_encoding.md R64, R65). -/
def decode (ev : EventWord) : Instr :=
  if portBit ev then .tick (byteOf ev) else decodeByte (byteOf ev)

/-- The decoder on any bit string, numbered from bit 0: what does not fit nine bits is rejected by name. -/
def decodeBits (w : Nat) : Except DecodeError Instr :=
  if w < 512 then .ok (decode (BitVec.ofNat 9 w)) else .error .notAnEventWord

/-- The decoder as the opcode table numbers words. Every event is one word of nine bits (30_encoding.md R60), so
`nbits` selects nothing. -/
def decodeTableWord (_nbits w : Nat) : Option Instr := (decodeBits w).toOption

/-- The event word of an event, from the `encoding` column of spec/opcode_table.json. -/
def encode : Instr → EventWord
  | .stNoteOn => 0b010010000#9
  | .stNoteOff => 0b010000000#9
  | .stOther sel => 0b01#2 ++ sel
  | .data b => 0b00#2 ++ b
  | .tick low => 0b1#1 ++ low

/-- The mnemonic of an event, as spec/opcode_table.json spells it. -/
def Instr.mnemonic : Instr → String
  | .stNoteOn => "ST_NOTE_ON"
  | .stNoteOff => "ST_NOTE_OFF"
  | .stOther _ => "ST_OTHER"
  | .data _ => "DATA"
  | .tick _ => "TICK"

/-- One match and mask pair of the byte map. -/
structure OpcodeRow where
  mnemonic : String
  pattern : EventWord
  mask : EventWord
  deriving DecidableEq, Repr

/-- A word is in a row when its masked bits are the pattern. -/
def OpcodeRow.covers (r : OpcodeRow) (ev : EventWord) : Bool := (ev &&& r.mask) == r.pattern

/-- The byte map of 30_encoding.md R64, whose rows it calls a "non-overlapping cover". -/
def byteMap : List OpcodeRow :=
  [⟨"DATA", 0x000, 0x180⟩, ⟨"ST_NOTE_OFF", 0x080, 0x1FF⟩, ⟨"ST_NOTE_ON", 0x090, 0x1FF⟩,
   ⟨"ST_OTHER", 0x081, 0x1FF⟩, ⟨"ST_OTHER", 0x082, 0x1FE⟩, ⟨"ST_OTHER", 0x084, 0x1FC⟩, ⟨"ST_OTHER", 0x088, 0x1F8⟩,
   ⟨"ST_OTHER", 0x091, 0x1FF⟩, ⟨"ST_OTHER", 0x092, 0x1FE⟩, ⟨"ST_OTHER", 0x094, 0x1FC⟩, ⟨"ST_OTHER", 0x098, 0x1F8⟩,
   ⟨"ST_OTHER", 0x0A0, 0x1E0⟩, ⟨"ST_OTHER", 0x0C0, 0x1C0⟩, ⟨"TICK", 0x100, 0x100⟩]

/-- The five rows of spec/opcode_table.json, in its order. `ST_OTHER`'s row is its lowest priority: "test ST_NOTE_ON
and ST_NOTE_OFF first", and the second decoder of 30_encoding.md R64 is the first row that covers a word. -/
def opcodeTable : List OpcodeRow :=
  [⟨"ST_NOTE_ON", 0x090, 0x1FF⟩, ⟨"ST_NOTE_OFF", 0x080, 0x1FF⟩, ⟨"ST_OTHER", 0x080, 0x180⟩,
   ⟨"DATA", 0x000, 0x180⟩, ⟨"TICK", 0x100, 0x100⟩]

end Sys2Proof
end

