-- ==== Sys2Proof/Machine/Assets.lean ====
section
/-! DEFINITION. The one complete configuration the spec writes down, TC of 95_test_vectors.md, which State.reset
carries. -/

namespace Sys2Proof.Machine

/-- `WT` of TC: `WT[t][i] = 32*t + (i >> 3)`. -/
def testWavetables : List (List Byte) :=
  (List.range 8).map fun t => (List.range 256).map fun i => BitVec.ofNat 8 (32 * t + i / 8)

/-- `PITCH` of TC: `PITCH[n] = n * 256`. -/
def testPitchTable : List Phase :=
  (List.range 128).map fun n => BitVec.ofNat 16 (n * 256)

/-- Test configuration TC (95_test_vectors.md). DESIGN CHOICE, unsafe: 00_scope.md R5 leaves `N`, `MAX_TABLE`, `WT`
and `PITCH` open, and TC is "a choice of this file only"; no statement rests on it (log 4). -/
def testConfig : Config where
  n := 6
  maxTable := 7
  wt := testWavetables
  pitch := testPitchTable
  mixShift := 3
  dcLimit := none
  fTick := 16000

end Sys2Proof.Machine
end

