-- ==== Sys2Proof/Machine/State.lean ====
section
/-! DEFINITION. The state: the voice register file and the parser registers (10_state.md R20 to R29), the
configuration with its two tables (00_scope.md R5, 10_state.md R32), and two fields of the model's own, the inputs still
to come (log 1) and the samples emitted so far (log 3). -/

namespace Sys2Proof.Machine

/-- One entry `V[k]` of the voice register file (10_state.md R20). -/
@[ext]
structure Voice where
  /-- "whether the slot currently sounds a note" -/
  active : Bool
  /-- "meaningful only while `active`" (10_state.md R21) -/
  note : Note
  /-- "phase increment per tick ...; 0 means silent" -/
  step : Phase
  /-- "running phase, wraps modulo 2^16" (10_state.md R22) -/
  acc : Phase
  /-- the cached result of the Table Selector (10_state.md R23). DESIGN CHOICE, safe: a natural, since R20 gives
  only a least width (log 23). -/
  tidx : Nat
  deriving DecidableEq, Repr

/-- A voice after reset (10_state.md R33). The zeros are the spec's own choice D13, DESIGN CHOICE, unsafe (log 5). -/
def Voice.reset : Voice where
  active := false
  note := 0#7
  step := 0#16
  acc := 0#16
  tidx := 0

/-- The three values `P.status` can hold, by the parser state each names. 10_state.md R28: "A model may use a
three-valued enumeration instead of the byte." DESIGN CHOICE, safe (log 7). -/
inductive ParserStatus where
  /-- `Idle`, 0x00 -/
  | idle
  /-- `ExpectingNoteOnData`, 0x90 -/
  | expectingNoteOnData
  /-- `ExpectingNoteOffData`, 0x80 -/
  | expectingNoteOffData
  deriving DecidableEq, Repr

/-- The byte `P.status` holds in each parser state (10_state.md R28). -/
def ParserStatus.byte : ParserStatus → Byte
  | .idle => 0x00#8
  | .expectingNoteOnData => noteOnStatus
  | .expectingNoteOffData => noteOffStatus

/-- The two parser registers `P.status` and `P.dc` (10_state.md R28, R29). -/
@[ext]
structure Parser where
  status : ParserStatus
  /-- "number of data bytes consumed since the last status byte", a natural number (10_state.md R29) -/
  dc : Nat
  deriving DecidableEq, Repr

/-- The parser after reset: `Idle`, count 0 (10_state.md R33, 70_reset_and_hazards.md R171). -/
def Parser.reset : Parser where
  status := .idle
  dc := 0

/-- One input of the block: an event word, or the reset input, which "is a separate input, not an event word"
(70_reset_and_hazards.md R170). -/
inductive Input where
  | reset
  | event (ev : EventWord)
  deriving DecidableEq, Repr

/-- Why the model stops. The block itself has no fault (60_exceptions.md R150); "A model faults only if it is given
such a configuration or state" (60_exceptions.md R156), so neither can arise from reset on a well-formed
configuration (log 10). -/
inductive Fault where
  /-- Raised by TICK when a voice's `tidx` and phase address no entry of `WT`. Safe. -/
  | wavetableOutOfRange
  /-- Raised by TICK when the shifted sum is no u8, which 00_scope.md R6 condition 5 rules out. Safe. -/
  | sampleOverflow
  deriving DecidableEq, Repr

/-- Why the model gives no meaning. -/
inductive Refusal where
  /-- An event without a meaning yet, by its mnemonic; no arm of exec raises it. Safe. -/
  | notModelled (mnemonic : String)
  /-- Raised by the reset input alone: "An ill-formed configuration ... is refused before reset, never during a
  run" (60_exceptions.md R156). Safe. -/
  | illFormedConfiguration
  deriving DecidableEq, Repr

/-- The whole machine. -/
@[ext]
structure State where
  /-- the configuration, `WT` and `PITCH` among it; no event writes it (10_state.md R31, R32) -/
  cfg : Config
  /-- the voice register file `V[0]` to `V[N-1]` (10_state.md R20) -/
  voices : List Voice
  /-- `P.status` and `P.dc` -/
  parser : Parser
  /-- MODEL'S OWN: the one sequence of inputs still to come (20_memory.md R48), oldest first. DESIGN CHOICE (log 1). -/
  inputs : List Input
  /-- MODEL'S OWN: the samples put on the sample port so far, oldest first, "the observation of a run"
  (20_memory.md R54). Nothing reads it. DESIGN CHOICE (log 3). -/
  emitted : List Byte
  deriving DecidableEq, Repr

/-- The state after reset under configuration `c` (10_state.md R33): nothing emitted (20_memory.md R54), no input
arrived. -/
def State.resetWith (c : Config) : State where
  cfg := c
  voices := List.replicate c.n Voice.reset
  parser := Parser.reset
  inputs := []
  emitted := []

/-- The machine right after reset, under test configuration TC (log 4). -/
def State.reset : State := State.resetWith testConfig

end Sys2Proof.Machine
end

