-- ==== Sys2Proof/Machine/Ops.lean ====
section
/-! DEFINITION. The named operations over state: reads of the two tables (20_memory.md R40 to R42), writes of whole
state fields, the sample port (20_memory.md R54), and the power-up reset (70_reset_and_hazards.md R170). There is no
memory write (20_memory.md R40), no exception to take and no return from one (60_exceptions.md R150, R161, R162). -/

namespace Sys2Proof.Machine

/-- `MemRead(WT, a, 1)` with the flat address `a = t * 256 + i` (20_memory.md R41); none outside the tables. -/
def memReadWT (c : Config) (a : Nat) : Option Byte :=
  (c.wt[a / 256]?).bind fun table => table[a % 256]?

/-- `MemRead(PITCH, n, 2)`, read whole (20_memory.md R42). "In this spec an omitted entry is a 0 entry": an entry a
short table lacks reads as 0 (log 9). -/
def memReadPITCH (c : Config) (n : Note) : Phase :=
  c.pitch.getD n.toNat 0#16

/-- Replace the voice register file. -/
def State.withVoices (s : State) (vs : List Voice) : State := { s with voices := vs }

/-- Replace the parser registers. -/
def State.withParser (s : State) (p : Parser) : State := { s with parser := p }

/-- Replace the inputs still to come. -/
def State.withInputs (s : State) (is : List Input) : State := { s with inputs := is }

/-- `emit SAMPLE(b)`: put one u8 on the sample output port (00_scope.md R9, 20_memory.md R54). -/
def State.emit (s : State) (b : Byte) : State := { s with emitted := s.emitted ++ [b] }

/-- The one reset, the power-up reset: "sets every register to the value in `10_state.md` rule R33 and emits
nothing" (70_reset_and_hazards.md R170). The configuration stays; the samples already emitted and the inputs still to
come are the host's and stay too (log 11). An ill-formed configuration is refused here (00_scope.md R6, D25). -/
def powerUp (s : State) : Host.Outcome State Fault Refusal :=
  if s.cfg.wf then
    .next ((State.resetWith s.cfg).withInputs s.inputs |> fun t => { t with emitted := s.emitted })
  else .refused .illFormedConfiguration

/-- Boot: a configuration is accepted and the block reset, or it is refused before any event
(70_reset_and_hazards.md R172). -/
def boot (c : Config) : Host.Outcome State Fault Refusal := powerUp (State.resetWith c)

end Sys2Proof.Machine
end

