-- ==== Sys2Proof/Machine/Flags.lean ====
section
/-! DEFINITION. The block has no condition codes (10_state.md R30) and every rule says "Flags written: none". Its only
control state is the parser's; here are the updates of the two parser registers (43_midi_parser.md R130). -/

namespace Sys2Proof.Machine

/-- `inc(d)` of 43_midi_parser.md R134: `d + 1` without a limit, `(d + 1) mod M` with one. For `M = 0` the spec gives
no value and the result is the free value of Config (log 6). -/
def incDataCount (limit : Option Nat) (d : Nat) : Nat :=
  match limit with
  | none => d + 1
  | some 0 => Config.freeModZero (d + 1)
  | some (m + 1) => (d + 1) % (m + 1)

/-- Enter a parser state on a status byte: the status is set and `P.dc <- 0` (43_midi_parser.md R131 to R133). -/
def State.enterParserState (s : State) (st : ParserStatus) : State :=
  s.withParser { status := st, dc := 0 }

/-- `P.dc <- inc(P.dc)` (43_midi_parser.md R134). -/
def State.countData (s : State) : State :=
  s.withParser { status := s.parser.status, dc := incDataCount s.cfg.dcLimit s.parser.dc }

end Sys2Proof.Machine
end

