-- ==== Sys2Proof/Machine/TableSelector.lean ====
section
/-! DEFINITION. The Table Selector (40_table_selector.md R80): combinational, without state. -/

namespace Sys2Proof.Machine

/-- `select_table(step)`, the pseudocode of 40_table_selector.md R80 line for line. -/
def selectTable (maxTable : Nat) (step : Phase) : Nat :=
  if step = 0#16 then 0
  else
    let q : Nat := 32768 / step.toNat
    let index : Int := (q : Int) - 1
    if index > (maxTable : Int) then maxTable
    else if index < 0 then 0
    else index.toNat

end Sys2Proof.Machine
end

