-- ==== Sys2Proof/Machine/VoiceAllocator.lean ====
section
/-! DEFINITION. The Voice Allocator (42_voice_allocator.md R110 to R117): `note_on`, `note_off`, `refresh`, and the
two-command internal port the parser drives. -/

namespace Sys2Proof.Machine

/-- Recompute one voice's table index from its step (42_voice_allocator.md R112). -/
def Voice.refreshed (maxTable : Nat) (v : Voice) : Voice := { v with tidx := selectTable maxTable v.step }

/-- The fields `note_on` writes: `acc` is not among them (42_voice_allocator.md R110, R115). -/
def Voice.bound (n : Note) (step : Phase) (v : Voice) : Voice :=
  { v with active := true, note := n, step := step }

/-- The fields `note_off` writes: neither `note` nor `acc` is among them (42_voice_allocator.md R111). -/
def Voice.released (v : Voice) : Voice := { v with active := false, step := 0#16 }

/-- `refresh()`: "recompute every voice's table index" (42_voice_allocator.md R112). -/
def refresh (s : State) : State := s.withVoices (s.voices.map (Voice.refreshed s.cfg.maxTable))

/-- Is the slot free? -/
def Voice.isFree (v : Voice) : Bool := !v.active

/-- Does the slot sound note `n`? -/
def Voice.sounds (n : Note) (v : Voice) : Bool := v.active && v.note == n

/-- `note_on(n)` (42_voice_allocator.md R110): the first free slot "in fixed index order" takes the note, then every
table index is recomputed; with no free slot "nothing is written" (60_exceptions.md R151). -/
def noteOn (n : Note) (s : State) : State :=
  match s.voices.findIdx? Voice.isFree with
  | some k => refresh (s.withVoices (s.voices.modify k (Voice.bound n (memReadPITCH s.cfg n))))
  | none => s

/-- `note_off(n)` (42_voice_allocator.md R111): the first active slot bound to `n` is released, then every table index
is recomputed (90_conflicts.md C6); with no match it is a "no-op" (60_exceptions.md R152). -/
def noteOff (n : Note) (s : State) : State :=
  match s.voices.findIdx? (Voice.sounds n) with
  | some k => refresh (s.withVoices (s.voices.modify k Voice.released))
  | none => s

/-- The commands of the internal port between parser and allocator (42_voice_allocator.md R117). -/
inductive Verb where
  | noteOn (n : Note)
  | noteOff (n : Note)
  deriving DecidableEq, Repr

/-- The allocator consumes one command, or none. -/
def runVerb : Option Verb → State → State
  | none, s => s
  | some (.noteOn n), s => noteOn n s
  | some (.noteOff n), s => noteOff n s

end Sys2Proof.Machine
end

