-- ==== Sys2Proof/Machine/MidiParser.lean ====
section
/-! DEFINITION. The MIDI parser: the four BYTE classes (43_midi_parser.md R130 to R141). -/

namespace Sys2Proof.Machine

/-- The verb a data byte calls: only the first data byte after a recognised status byte calls one
(43_midi_parser.md R135 to R137). R135's test `b < 128` "always holds" of a data byte (30_encoding.md R63). -/
def dataVerb (p : Parser) (b : Note) : Option Verb :=
  match p.status with
  | .expectingNoteOnData => if p.dc = 0 then some (.noteOn b) else none
  | .expectingNoteOffData => if p.dc = 0 then some (.noteOff b) else none
  | .idle => none

/-- `ST_NOTE_ON`: `P.status <- 0x90; P.dc <- 0` (43_midi_parser.md R131). -/
def execStNoteOn (s : State) : Host.Outcome State Fault Refusal :=
  .next (s.enterParserState .expectingNoteOnData)

/-- `ST_NOTE_OFF`: `P.status <- 0x80; P.dc <- 0` (43_midi_parser.md R132). -/
def execStNoteOff (s : State) : Host.Outcome State Fault Refusal :=
  .next (s.enterParserState .expectingNoteOffData)

/-- `ST_OTHER`: `P.status <- 0x00; P.dc <- 0`, for every other status byte alike (43_midi_parser.md R133,
30_encoding.md R65). -/
def execStOther (_sel : BitVec 7) (s : State) : Host.Outcome State Fault Refusal :=
  .next (s.enterParserState .idle)

/-- `DATA` (43_midi_parser.md R134): in `Idle` nothing (R137); otherwise at most one verb, then `P.dc` is counted
"Regardless" (R135, R136). -/
def execData (b : Note) (s : State) : Host.Outcome State Fault Refusal :=
  match s.parser.status with
  | .idle => .next s
  | .expectingNoteOnData => .next (runVerb (dataVerb s.parser b) s).countData
  | .expectingNoteOffData => .next (runVerb (dataVerb s.parser b) s).countData

end Sys2Proof.Machine
end

