-- ==== Sys2Proof/Machine/Operands.lean ====
section
/-! DEFINITION. The operands an event computes with: the phase advance and the sample index of a voice
(41_oscillator_mixer.md R91, R92). The only operand of an event word is a data byte's value, which the decoder already
gives as a note number (30_encoding.md R63). -/

namespace Sys2Proof.Machine

/-- Phase advance: `V[k].acc +16 V[k].step`, "active or not" (41_oscillator_mixer.md R91). -/
def Voice.advance (v : Voice) : Voice := { v with acc := v.acc + v.step }

/-- `sample_index[k] = V[k].acc[15:8]` (41_oscillator_mixer.md R92). -/
def Voice.sampleIndex (v : Voice) : Byte := v.acc.extractLsb' 8 8

/-- The flat address of the entry a voice reads: `V[k].tidx * 256 + i` (41_oscillator_mixer.md R90). -/
def Voice.sampleAddress (v : Voice) : Nat := v.tidx * 256 + v.sampleIndex.toNat

end Sys2Proof.Machine
end

