-- ==== Sys2Proof/Machine/OscillatorMixer.lean ====
section
/-! DEFINITION. The oscillator bank and the mixer: the TICK event (41_oscillator_mixer.md R90 to R98). -/

namespace Sys2Proof.Machine

/-- The mix: the exact sum of every voice's sample, "active or not" (41_oscillator_mixer.md R93, R94, R96); none when
a read falls outside `WT`. -/
def mixSum (c : Config) : List Voice → Option Nat
  | [] => some 0
  | v :: vs =>
    match memReadWT c v.sampleAddress, mixSum c vs with
    | some x, some sum => some (x.toNat + sum)
    | _, _ => none

/-- The sample: "the whole sum is shifted once" (41_oscillator_mixer.md R94); none when it is no u8. -/
def sampleOf (c : Config) (sum : Nat) : Option Byte :=
  if sum >>> c.mixShift ≤ 255 then some (BitVec.ofNat 8 (sum >>> c.mixShift)) else none

/-- `TICK` (41_oscillator_mixer.md R90): advance every accumulator, look up with the updated accumulator (D4, log 12),
mix, shift, emit. `EV[7:0]` is ignored (30_encoding.md R60). -/
def execTick (_low : Byte) (s : State) : Host.Outcome State Fault Refusal :=
  let voices := s.voices.map Voice.advance
  match mixSum s.cfg voices with
  | none => .fault .wavetableOutOfRange
  | some sum =>
    match sampleOf s.cfg sum with
    | none => .fault .sampleOverflow
    | some b => .next ((s.withVoices voices).emit b)

end Sys2Proof.Machine
end

