-- ==== Sys2Proof/Machine/Dispatch.lean ====
section
/-! DEFINITION. One arm for each event of the opcode table. -/

namespace Sys2Proof.Machine

def exec (i : Instr) (s : State) : Host.Outcome State Fault Refusal :=
  match i with
  | .stNoteOn => Sys2Proof.Machine.execStNoteOn s
  | .stNoteOff => Sys2Proof.Machine.execStNoteOff s
  | .stOther sel => Sys2Proof.Machine.execStOther sel s
  | .data b => Sys2Proof.Machine.execData b s
  | .tick low => Sys2Proof.Machine.execTick low s

end Sys2Proof.Machine
end

