-- ==== Sys2Proof/Machine/Step.lean ====
section
/-! DEFINITION. One step: the next input of the sequence, run whole (00_scope.md R10, 20_memory.md R48). -/

namespace Sys2Proof.Machine

/-- Take the next input. With none, "the block holds all its state and does nothing" (60_exceptions.md R165). -/
def step (s : State) : Host.Outcome State Fault Refusal :=
  match s.inputs with
  | [] => .next s
  | .reset :: rest => powerUp (s.withInputs rest)
  | .event ev :: rest => exec (decode ev) (s.withInputs rest)

/-- `s` with the event word `w` next in the sequence: the arrival of one event (log 1). The event port has nine
bits (30_encoding.md R60), whatever `nbits` rounds them to. -/
def State.withFetchWord (s : State) (_nbits w : Nat) : State :=
  s.withInputs (.event (BitVec.ofNat 9 w) :: s.inputs)

end Sys2Proof.Machine
end

