-- ==== Sys2Proof/Machine/Ports.lean ====
section
/-! DEFINITION. The host's side of the input ports (20_memory.md R53, 60_exceptions.md R157 to R159): how arrivals
become events of the one sequence. -/

namespace Sys2Proof.Machine

/-- The word of a BYTE event: `port = 0` (30_encoding.md R60). -/
def byteEvent (b : Byte) : EventWord := 0b0#1 ++ b

/-- The canonical word of a TICK event (30_encoding.md R60). -/
def tickEvent : EventWord := 0x100#9

/-- What can arrive at the input ports. -/
inductive Arrival where
  /-- a byte that the block consumes -/
  | byte (b : Byte)
  /-- a tick -/
  | tick
  /-- a tick and a byte together -/
  | together (b : Byte)
  /-- a byte lost by overrun -/
  | lost (b : Byte)
  deriving DecidableEq, Repr

/-- The events of an arrival, in order: of a simultaneous pair "the TICK is processed first and the BYTE second"
(60_exceptions.md R159); "A lost byte has no BYTE event" (20_memory.md R53). -/
def Arrival.events : Arrival → List EventWord
  | .byte b => [byteEvent b]
  | .tick => [tickEvent]
  | .together b => [tickEvent, byteEvent b]
  | .lost _ => []

/-- An arrival joins the end of the sequence (20_memory.md R48). -/
def State.deliver (s : State) (a : Arrival) : State :=
  s.withInputs (s.inputs ++ a.events.map .event)

/-- A whole list of event words joins the end of the sequence. -/
def State.feed (s : State) (evs : List EventWord) : State :=
  s.withInputs (s.inputs ++ evs.map .event)

end Sys2Proof.Machine
end

