-- ==== Sys2Proof/Machine/Program.lean ====
section
/-! DEFINITION. The program text of 30_encoding.md R68: an assembler from its lines to the inputs they stand for. -/

namespace Sys2Proof.Machine

/-- A line of a program (30_encoding.md R68); a comment is no line. -/
inductive Line where
  | reset
  | byte (x : Nat)
  | tick
  /-- `NOTEON n, v` -/
  | noteOnVel (n v : Nat)
  /-- `NOTEOFF n, v` -/
  | noteOffVel (n v : Nat)
  /-- `NOTEON n` -/
  | noteOn (n : Nat)
  /-- `NOTEOFF n` -/
  | noteOff (n : Nat)
  | ticks (k : Nat)
  deriving DecidableEq, Repr

/-- `BYTE x` for a number. -/
def byteWord (x : Nat) : EventWord := byteEvent (BitVec.ofNat 8 x)

/-- The words of a line. "`n` and `v` must lie in 0..127. An assembler refuses a larger value" (30_encoding.md R68);
`RESET` is no event word. -/
def Line.words : Line → Option (List EventWord)
  | .reset => none
  | .byte x => if x ≤ 255 then some [byteWord x] else none
  | .tick => some [tickEvent]
  | .noteOnVel n v => if n ≤ 127 ∧ v ≤ 127 then some [byteEvent noteOnStatus, byteWord n, byteWord v] else none
  | .noteOffVel n v => if n ≤ 127 ∧ v ≤ 127 then some [byteEvent noteOffStatus, byteWord n, byteWord v] else none
  | .noteOn n => if n ≤ 127 then some [byteEvent noteOnStatus, byteWord n] else none
  | .noteOff n => if n ≤ 127 then some [byteEvent noteOffStatus, byteWord n] else none
  | .ticks k => some (List.replicate k tickEvent)

/-- The words of lines without `RESET`, in order; none if a line is refused. -/
def assembleEvents : List Line → Option (List EventWord)
  | [] => some []
  | l :: ls =>
    match l.words, assembleEvents ls with
    | some ws, some rest => some (ws ++ rest)
    | _, _ => none

/-- The inputs of a program. `RESET` "may appear only as the first line of a program" (30_encoding.md R68). -/
def assemble : List Line → Option (List Input)
  | .reset :: ls => (assembleEvents ls).map fun ws => .reset :: ws.map .event
  | ls => (assembleEvents ls).map fun ws => ws.map .event

end Sys2Proof.Machine
end

