-- ==== Sys2Proof/Safety.lean ====
section
/-! DEFINITION. What a safe state is: the invariants of 10_state.md section 2, and runs. -/

namespace Sys2Proof.Machine

/-- `V[k].tidx = select_table(V[k].step)` (10_state.md R24), the pair R49 of 20_memory.md calls one unit. -/
def Voice.Coherent (c : Config) (v : Voice) : Prop := v.tidx = selectTable c.maxTable v.step

/-- `V[k].active = false` implies `V[k].step = 0` (10_state.md R25). -/
def Voice.SilentWhenInactive (v : Voice) : Prop := v.active = false → v.step = 0#16

/-- What holds at every event boundary on a well-formed configuration. -/
structure State.Inv (s : State) : Prop where
  /-- 00_scope.md R6 -/
  configured : s.cfg.wf = true
  /-- exactly `N` voices (10_state.md R20) -/
  fileSize : s.voices.length = s.cfg.n
  /-- no torn pair (10_state.md R24) -/
  coherent : ∀ v ∈ s.voices, v.Coherent s.cfg
  /-- 10_state.md R25 -/
  silent : ∀ v ∈ s.voices, v.SilentWhenInactive
  /-- `P.dc` stays 0 in `Idle` (43_midi_parser.md R137) -/
  idleCount : s.parser.status = .idle → s.parser.dc = 0
  /-- `P.dc` counts modulo `M` (10_state.md R29) -/
  countBound : ∀ m, s.cfg.dcLimit = some m → 0 < m → s.parser.dc < m

/-- `t` is reached from `s` by `k` steps, each answering a next state. -/
def Runs (k : Nat) (s t : State) : Prop := Host.Core.run Sys2Proof.core k s = .next t

/-- Is the event word a TICK? -/
def isTick (ev : EventWord) : Bool := portBit ev

/-- `d'` is `inc(d)` wherever the spec gives `inc` a value (43_midi_parser.md R134, R138): no claim for
`DC_LIMIT = some 0` (log 6). -/
def CountsTo (limit : Option Nat) (d d' : Nat) : Prop :=
  (limit = none → d' = d + 1) ∧ ∀ m, limit = some m → 0 < m → d' = (d + 1) % m

/-- Every voice's table index addresses a table (10_state.md R23). -/
def State.TidxInRange (s : State) : Prop := ∀ v ∈ s.voices, v.tidx ≤ s.cfg.maxTable

/-- The entry of `WT` that a voice reads with phase `p`: `WT[V[k].tidx][p[15:8]]` (41_oscillator_mixer.md R92, R93). -/
def Voice.entryAt (c : Config) (v : Voice) (p : Nat) : Nat :=
  ((c.wt.getD v.tidx []).getD (p / 256) 0#8).toNat

/-- Two voices equal but for the note of an inactive one, which "has no effect on any later state or output"
(10_state.md R21). -/
structure Voice.SameButStaleNote (v w : Voice) : Prop where
  active : v.active = w.active
  step : v.step = w.step
  acc : v.acc = w.acc
  tidx : v.tidx = w.tidx
  note : v.active = true → v.note = w.note

/-- Two states equal but for the notes of inactive voices. -/
structure State.SameButStaleNotes (s t : State) : Prop where
  cfg : s.cfg = t.cfg
  voices : List.Forall₂ Voice.SameButStaleNote s.voices t.voices
  parser : s.parser = t.parser
  inputs : s.inputs = t.inputs
  emitted : s.emitted = t.emitted

/-- Two states equal but for the data count, which is 0 in both or in neither: all that one bit of
`min(P.dc, 1)` keeps (10_state.md R29). -/
structure State.SameButCount (s t : State) : Prop where
  cfg : s.cfg = t.cfg
  voices : s.voices = t.voices
  status : s.parser.status = t.parser.status
  count : s.parser.dc = 0 ↔ t.parser.dc = 0
  inputs : s.inputs = t.inputs
  emitted : s.emitted = t.emitted

end Sys2Proof.Machine
end

