-- ==== Sys2Proof/Certificates/Slice0/Obligations.lean ====
section
/-! DEFINITION. The statements about the model, from the numbered rules of spec/. Where one rests on a decision of the
spec (D<n>, 92_eei_decisions.md) or on a choice of the model (log <n>, notes/assumptions), its docstring says so. -/

open Sys2Proof Sys2Proof.Machine

/-! ### Encoding (30_encoding.md) -/

/-- R61, R62: a byte without its high bit is data, of its low seven bits (R63); a status byte decodes "by exact
equality" with 0x90 and 0x80, and every other status byte is `ST_OTHER`. -/
def Obligations.BytesDecodeByExactEquality : Prop :=
  ∀ b : Byte,
    (b.toNat < 128 → decodeByte b = .data (BitVec.ofNat 7 b.toNat)) ∧
    (b = 0x90#8 → decodeByte b = .stNoteOn) ∧
    (b = 0x80#8 → decodeByte b = .stNoteOff) ∧
    (128 ≤ b.toNat → b ≠ 0x90#8 → b ≠ 0x80#8 → decodeByte b = .stOther (BitVec.ofNat 7 b.toNat))

/-- R60 (the event word is decision D2, log 20): with `EV[8] = 0` a word is the BYTE of its low eight bits, with
`EV[8] = 1` it is TICK whatever they are. -/
def Obligations.EventWordSelectsByteOrTick : Prop :=
  ∀ ev : EventWord,
    (ev.toNat < 256 → decode ev = decodeByte (BitVec.ofNat 8 ev.toNat)) ∧
    (256 ≤ ev.toNat → decode ev = .tick (BitVec.ofNat 8 ev.toNat)) ∧
    (∀ (s : State) (low : Byte), exec (.tick low) s = exec (.tick 0#8) s)

/-- R64: exactly one row of the non-overlapping cover holds each word and it is the decoder's class, and the decoder
that tests the table's rows in order of priority gives the same class. -/
def Obligations.ByteMapGivesEachWordOneClass : Prop :=
  ∀ ev : EventWord,
    (byteMap.filter (·.covers ev)).map (·.mnemonic) = [(decode ev).mnemonic] ∧
    (opcodeTable.find? (·.covers ev)).map (·.mnemonic) = some (decode ev).mnemonic

/-- Words of 95_test_vectors.md section 2.1, written out from the encodings, decode to the events they stand for. -/
def Obligations.WrittenWordsDecode : Prop :=
  decode 0b000111100#9 = .data 60#7 ∧ decode 0b010010000#9 = .stNoteOn ∧ decode 0b010000000#9 = .stNoteOff ∧
  decode 0b010010001#9 = .stOther 0x11#7 ∧ decode 0b011111000#9 = .stOther 0x78#7 ∧
  decode 0b100000000#9 = .tick 0#8 ∧ decode 0b110010000#9 = .tick 0x90#8

/-- For every well-formed event, decoding its word gives the event back, with every operand. -/
def Obligations.EncodeThenDecodeReturnsTheEvent : Prop :=
  ∀ i : Instr, i.wf = true → decode (encode i) = i

/-- R65: no word is illegal or reserved: every one of the 512 decodes to a well-formed event whose word it is. -/
def Obligations.DecodeThenEncodeReturnsTheWord : Prop :=
  ∀ ev : EventWord, (decode ev).wf = true ∧ encode (decode ev) = ev

/-! ### Table Selector (40_table_selector.md) -/

/-- R80: `select_table(0) = 0`, and else `floor(2^15 / step) - 1` clamped to `[0, MAX_TABLE]`. -/
def Obligations.SelectTableFollowsItsFormula : Prop :=
  ∀ (maxTable : Nat) (step : Phase),
    (step = 0#16 → selectTable maxTable step = 0) ∧
    (step ≠ 0#16 →
      (selectTable maxTable step : Int) = max 0 (min (maxTable : Int) ((32768 / step.toNat : Nat) - 1 : Int)))

/-- R81 (derived in the spec from R80): the unclamped index `j` is produced exactly by the steps
`32768 div (j + 2) + 1` to `32768 div (j + 1)`, and the result is then `min(j, MAX_TABLE)`; above 32768 it is 0. -/
def Obligations.SelectTableBreakpoints : Prop :=
  ∀ (maxTable j : Nat) (step : Phase),
    ((32768 / (j + 2) + 1 ≤ step.toNat ∧ step.toNat ≤ 32768 / (j + 1)) ↔
      (32768 / step.toNat = j + 1)) ∧
    (32768 / (j + 2) + 1 ≤ step.toNat → step.toNat ≤ 32768 / (j + 1) → selectTable maxTable step = min j maxTable) ∧
    (32768 < step.toNat → selectTable maxTable step = 0)

/-- R82 (derived in the spec from R80; C3): over `step >= 1` the index does not rise with the step. -/
def Obligations.SelectTableDoesNotRiseWithStep : Prop :=
  ∀ (maxTable : Nat) (s1 s2 : Phase), 1 ≤ s1.toNat → s1.toNat ≤ s2.toNat →
    selectTable maxTable s2 ≤ selectTable maxTable s1

/-- R83 (derived in the spec from R80): the result plus one bounds the harmonics that stay within half the tick rate,
and short of `MAX_TABLE` it is the largest such bound. -/
def Obligations.SelectTableBoundsTheHarmonics : Prop :=
  ∀ (maxTable : Nat) (step : Phase), 1 ≤ step.toNat → step.toNat ≤ 32768 →
    (selectTable maxTable step + 1) * step.toNat ≤ 32768 ∧
    (selectTable maxTable step < maxTable → 32768 < (selectTable maxTable step + 2) * step.toNat)

/-! ### Tables and configuration -/

/-- R41: the flat address `t * 256 + i` (decision D27, log 25) reads `WT[t][i]`, for every entry of a well-formed set. -/
def Obligations.FlatAddressReadsItsTableEntry : Prop :=
  ∀ (c : Config) (t i : Nat), c.wf = true → t ≤ c.maxTable → i < 256 →
    ∃ table x, c.wt[t]? = some table ∧ table[i]? = some x ∧ memReadWT c (t * 256 + i) = some x

/-- R5, R6 condition 5 (decision D8, log 16): `ceil(log2 N)` is the least shift whose power reaches `N`, and it keeps
the largest sum in eight bits. -/
def Obligations.DefaultMixShiftFitsEveryPolyphony : Prop :=
  ∀ n : Nat, 1 ≤ n →
    n ≤ 2 ^ ceilLog2 n ∧ (∀ k, n ≤ 2 ^ k → ceilLog2 n ≤ k) ∧ (n * 255) >>> ceilLog2 n ≤ 255

/-- R6 (decisions D8, D25), with R5's type of `F_TICK` (log 8): when a configuration is well formed. -/
def Obligations.WellFormedConfigurationIsRuleSix : Prop :=
  ∀ c : Config, c.wf = true ↔
    1 ≤ c.n ∧ c.maxTable ≤ 32766 ∧ (c.wt.length = c.maxTable + 1 ∧ ∀ t ∈ c.wt, t.length = 256) ∧
    c.pitch.length = 128 ∧ (c.n * 255) / 2 ^ c.mixShift ≤ 255 ∧ 0 < c.fTick

/-- R32: "No event writes either table", and no step changes any of the configuration (10_state.md R31). -/
def Obligations.NoStepWritesTheConfiguration : Prop :=
  ∀ s t : State, step s = .next t → t.cfg = s.cfg

/-! ### TICK (41_oscillator_mixer.md) -/

/-- R91, R98: on a well-formed configuration with every table index in range, TICK completes whatever its low bits, adds
`step` to every `acc` modulo 2^16, active or not, and writes no other register. -/
def Obligations.TickAdvancesEveryPhaseAndNothingElse : Prop :=
  ∀ s : State, s.cfg.wf = true → s.voices.length = s.cfg.n → s.TidxInRange →
    ∃ t : State, (∀ low, exec (.tick low) s = .next t) ∧
      t.cfg = s.cfg ∧ t.parser = s.parser ∧ t.inputs = s.inputs ∧ t.voices.length = s.voices.length ∧
      ∀ (k : Nat) (v : Voice), s.voices[k]? = some v →
        ∃ w, t.voices[k]? = some w ∧ w.acc.toNat = (v.acc.toNat + v.step.toNat) % 2 ^ 16 ∧
          w.active = v.active ∧ w.note = v.note ∧ w.step = v.step ∧ w.tidx = v.tidx

/-- R90, R92 to R95, resting on decisions D4 (lookup after the advance, same-TICK output; log 12), D5 (every voice is
mixed; log 13) and D8 (the shift; log 16): the one sample a TICK emits. -/
def Obligations.TickEmitsTheMixOfAdvancedVoices : Prop :=
  ∀ (s : State) (low : Byte), s.cfg.wf = true → s.voices.length = s.cfg.n → s.TidxInRange →
    ∃ (t : State) (b : Byte), exec (.tick low) s = .next t ∧ t.emitted = s.emitted ++ [b] ∧
      b.toNat = (s.voices.map fun v =>
        v.entryAt s.cfg ((v.acc.toNat + v.step.toNat) % 2 ^ 16)).sum / 2 ^ s.cfg.mixShift

/-- The model's choice in the states R156 of 60_exceptions.md calls possible only if given (log 10): a TICK whose table
index lies outside `[0, MAX_TABLE]` stops by name. -/
def Obligations.TickStopsOnAnIndexOutsideTheSet : Prop :=
  ∀ (s : State) (low : Byte) (v : Voice), s.cfg.wf = true → v ∈ s.voices → s.cfg.maxTable < v.tidx →
    exec (.tick low) s = .fault .wavetableOutOfRange

/-- R96, R97 (decision D5, log 13): the sample depends on `acc`, `step` and `tidx` of the voices alone; `active`, `note`,
the parser and the history play no part. -/
def Obligations.SampleDependsOnPhaseStepAndIndexAlone : Prop :=
  ∀ (s s' t : State) (low low' : Byte) (b : Byte), s.cfg = s'.cfg →
    s.voices.map (fun v => (v.acc, v.step, v.tidx)) = s'.voices.map (fun v => (v.acc, v.step, v.tidx)) →
    exec (.tick low) s = .next t → t.emitted = s.emitted ++ [b] →
    ∃ t' : State, exec (.tick low') s' = .next t' ∧ t'.emitted = s'.emitted ++ [b] ∧
      t'.voices.map Voice.acc = t.voices.map Voice.acc

/-- R99 (derived in the spec from R91): after `m` TICKs `acc` is `(acc0 + m * step) mod 2^16`; one sample each is
emitted. From every state that meets the invariant. -/
def Obligations.TicksMoveEachPhaseLinearly : Prop :=
  ∀ (s : State) (m : Nat) (rest : List Input), s.Inv →
    s.inputs = List.replicate m (.event tickEvent) ++ rest →
    ∃ t : State, Runs m s t ∧ t.inputs = rest ∧ t.parser = s.parser ∧ t.emitted.length = s.emitted.length + m ∧
      ∀ (k : Nat) (v : Voice), s.voices[k]? = some v →
        ∃ w, t.voices[k]? = some w ∧ w.acc.toNat = (v.acc.toNat + m * v.step.toNat) % 2 ^ 16 ∧
          w.step = v.step ∧ w.tidx = v.tidx ∧ w.active = v.active ∧ w.note = v.note

/-- R99 (derived in the spec from R91; C2): the phase is back after `m` TICKs exactly when the period
`2^16 / gcd(step, 2^16)` divides `m`. -/
def Obligations.PhaseReturnsExactlyAtItsPeriod : Prop :=
  ∀ (s : State) (m : Nat) (rest : List Input) (k : Nat) (v : Voice), s.Inv →
    s.inputs = List.replicate m (.event tickEvent) ++ rest → s.voices[k]? = some v →
    ∃ (t : State) (w : Voice), Runs m s t ∧ t.voices[k]? = some w ∧
      (w.acc = v.acc ↔ 2 ^ 16 / Nat.gcd v.step.toNat (2 ^ 16) ∣ m)

/-- R96, R178 (decision D5, log 13): with every voice released the output is one constant level, which depends on where
the phases froze. -/
def Obligations.ReleasedVoicesGiveAConstantLevel : Prop :=
  ∀ (s : State) (m : Nat) (rest : List Input), s.Inv → (∀ v ∈ s.voices, v.active = false) →
    s.inputs = List.replicate m (.event tickEvent) ++ rest →
    ∃ (t : State) (b : Byte), Runs m s t ∧ t.voices = s.voices ∧ t.emitted = s.emitted ++ List.replicate m b ∧
      b.toNat = (s.voices.map fun v => ((s.cfg.wt.getD 0 []).getD (v.acc.toNat / 256) 0#8).toNat).sum
        / 2 ^ s.cfg.mixShift

/-- 70_reset_and_hazards.md R173, a sum over inactive voices at their reset values (decisions D5, log 13, and D13,
log 5): until a note sounds every TICK after reset emits `(N * WT[0][0]) >> MIX_SHIFT`. -/
def Obligations.TicksAfterResetEmitTheRestLevel : Prop :=
  ∀ (c : Config) (m : Nat), c.wf = true →
    ∃ (t : State) (b : Byte), Runs m ((State.resetWith c).feed (List.replicate m tickEvent)) t ∧
      t.emitted = List.replicate m b ∧ t.voices = List.replicate c.n Voice.reset ∧
      b.toNat = (c.n * ((c.wt.getD 0 []).getD 0 0#8).toNat) / 2 ^ c.mixShift

/-! ### Parser (43_midi_parser.md) -/

/-- R131: in every state the Note-On status byte sets `P.status` to 0x90 and `P.dc` to 0, and writes nothing else. -/
def Obligations.NoteOnStatusArmsTheParser : Prop :=
  ∀ s : State, ∃ p : Parser, exec .stNoteOn s = .next { s with parser := p } ∧ p.status.byte = 0x90#8 ∧ p.dc = 0

/-- R132: in every state the Note-Off status byte sets `P.status` to 0x80 and `P.dc` to 0, and writes nothing else. -/
def Obligations.NoteOffStatusArmsTheParser : Prop :=
  ∀ s : State, ∃ p : Parser, exec .stNoteOff s = .next { s with parser := p } ∧ p.status.byte = 0x80#8 ∧ p.dc = 0

/-- R133, and R153 of 60_exceptions.md: every other status byte returns the parser to `Idle` with count 0; the voices
are not touched. -/
def Obligations.OtherStatusReturnsTheParserToIdle : Prop :=
  ∀ (s : State) (sel : BitVec 7), ∃ p : Parser,
    exec (.stOther sel) s = .next { s with parser := p } ∧ p.status.byte = 0x00#8 ∧ p.status = .idle ∧ p.dc = 0

/-- R137: a data byte in `Idle` is ignored and no register changes. (That `P.dc` stays 0 in `Idle`, which the spec
derives, is a clause of the invariant.) -/
def Obligations.DataInIdleIsIgnored : Prop :=
  ∀ (s : State) (b : Note), s.parser.status = .idle → exec (.data b) s = .next s

/-- R134 to R136, R139 (decisions D6 and D7, logs 14 and 15): a data byte after the first calls no verb, it only
counts; its effect is the whole next state. -/
def Obligations.LaterDataBytesOnlyCount : Prop :=
  ∀ (s : State) (b : Note), s.parser.status ≠ .idle → s.parser.dc ≠ 0 →
    ∃ d, exec (.data b) s = .next { s with parser := { status := s.parser.status, dc := d } } ∧
      CountsTo s.cfg.dcLimit s.parser.dc d

/-- R138, R139, R140 (decisions D6 and D7, logs 14 and 15): with `DC_LIMIT = none`, any number of further data bytes,
velocity 0 among them, changes nothing but the count. -/
def Obligations.RunningStatusIsNotHonoured : Prop :=
  ∀ (s : State) (bs : List Note) (rest : List Input), s.cfg.dcLimit = none → s.parser.status ≠ .idle →
    s.parser.dc ≠ 0 → s.inputs = bs.map (fun b => .event (encode (.data b))) ++ rest →
    Runs bs.length s
      { s with inputs := rest, parser := { status := s.parser.status, dc := s.parser.dc + bs.length } }

/-- R138 (decision D7, log 15): with `DC_LIMIT = some M` the count wraps at `M`, so that after `M` data bytes in all the
next one is a note again. -/
def Obligations.CountWrapsAtItsLimit : Prop :=
  ∀ (s : State) (m : Nat) (bs : List Note) (rest : List Input), s.cfg.dcLimit = some m → s.parser.status ≠ .idle →
    s.parser.dc ≠ 0 → s.parser.dc < m → s.parser.dc + bs.length = m →
    s.inputs = bs.map (fun b => .event (encode (.data b))) ++ rest →
    Runs bs.length s { s with inputs := rest, parser := { status := s.parser.status, dc := 0 } }

/-- R141 (that the allocator writes no phase is decision D14, log 17): every BYTE completes in every state, writes
neither a phase nor a sample, and acts on the voices through at most one verb of the allocator. -/
def Obligations.BytesWriteNeitherPhaseNorSample : Prop :=
  ∀ (s : State) (i : Instr), (∀ low, i ≠ .tick low) →
    ∃ (t : State) (verb : Option Verb), exec i s = .next t ∧ t.voices = (runVerb verb s).voices ∧
      t.voices.map Voice.acc = s.voices.map Voice.acc ∧
      t.emitted = s.emitted ∧ t.cfg = s.cfg ∧ t.inputs = s.inputs

/-! ### Voice Allocator (42_voice_allocator.md) -/

/-- R110, R112, R113, R135 (R115's kept phase is decision D14, log 17; the count is D7, log 15): the first data byte after
Note-On binds the first free voice to the note, with the pitch table's step unchecked, and refreshes every index. -/
def Obligations.FirstDataByteBindsTheFirstFreeVoice : Prop :=
  ∀ (s : State) (b : Note) (k : Nat) (v : Voice), s.parser.status = .expectingNoteOnData → s.parser.dc = 0 →
    s.voices[k]? = some v → v.active = false →
    (∀ j w, j < k → s.voices[j]? = some w → w.active = true) →
    ∃ t : State, exec (.data b) s = .next t ∧
      t.cfg = s.cfg ∧ t.inputs = s.inputs ∧ t.emitted = s.emitted ∧
      t.parser.status = .expectingNoteOnData ∧ CountsTo s.cfg.dcLimit 0 t.parser.dc ∧
      t.voices =
        (s.voices.set k { active := true, note := b, step := s.cfg.pitch.getD b.toNat 0#16, acc := v.acc, tidx := v.tidx }).map
          fun w => { w with tidx := selectTable s.cfg.maxTable w.step }

/-- R151, R152 of 60_exceptions.md: `note_on` with no free voice and `note_off` with no matching active voice change
nothing, whatever notes inactive voices still hold. -/
def Obligations.UnmetVerbsChangeNothing : Prop :=
  ∀ (s : State) (n : Note),
    ((∀ v ∈ s.voices, v.active = true) → noteOn n s = s) ∧
    ((∀ v ∈ s.voices, v.active = true → v.note ≠ n) → noteOff n s = s)

/-- R151 of 60_exceptions.md: a note with no free voice is dropped; nothing but the parser's count changes (R135; the
count is D7, log 15). -/
def Obligations.NoteWithoutAFreeVoiceIsDropped : Prop :=
  ∀ (s : State) (b : Note), s.parser.status = .expectingNoteOnData → s.parser.dc = 0 →
    (∀ v ∈ s.voices, v.active = true) →
    ∃ d, exec (.data b) s = .next { s with parser := { status := .expectingNoteOnData, dc := d } } ∧
      CountsTo s.cfg.dcLimit 0 d

/-- R111, R112, R114, R136 (refresh on note-off: C6, log 24; the count is D7, log 15): the first data byte after Note-Off
releases the lowest active voice bound to the note and no other, keeping its note and phase, and refreshes every
index. -/
def Obligations.FirstDataByteReleasesTheFirstMatch : Prop :=
  ∀ (s : State) (b : Note) (k : Nat) (v : Voice), s.parser.status = .expectingNoteOffData → s.parser.dc = 0 →
    s.voices[k]? = some v → v.active = true → v.note = b →
    (∀ j w, j < k → s.voices[j]? = some w → w.active = true → w.note ≠ b) →
    ∃ t : State, exec (.data b) s = .next t ∧
      t.cfg = s.cfg ∧ t.inputs = s.inputs ∧ t.emitted = s.emitted ∧
      t.parser.status = .expectingNoteOffData ∧ CountsTo s.cfg.dcLimit 0 t.parser.dc ∧
      t.voices =
        (s.voices.set k { active := false, note := v.note, step := 0#16, acc := v.acc, tidx := v.tidx }).map
          fun w => { w with tidx := selectTable s.cfg.maxTable w.step }

/-- R152 of 60_exceptions.md: a note-off that matches no active voice changes nothing but the parser's count (R136; the
count is D7, log 15), whatever notes inactive voices still hold. -/
def Obligations.NoteOffWithoutAMatchIsIgnored : Prop :=
  ∀ (s : State) (b : Note), s.parser.status = .expectingNoteOffData → s.parser.dc = 0 →
    (∀ v ∈ s.voices, v.active = true → v.note ≠ b) →
    ∃ d, exec (.data b) s = .next { s with parser := { status := .expectingNoteOffData, dc := d } } ∧
      CountsTo s.cfg.dcLimit 0 d

/-- R112 (derived in the spec from R24): while every index agrees with its step, a BYTE changes at most one voice, so the
global refresh cannot be told from a refresh of that voice. -/
def Obligations.ByteChangesAtMostOneVoice : Prop :=
  ∀ (s : State) (i : Instr), (∀ low, i ≠ .tick low) → (∀ v ∈ s.voices, v.Coherent s.cfg) →
    ∃ (t : State) (k : Nat), exec i s = .next t ∧ t.voices.length = s.voices.length ∧ ∀ j, j ≠ k → t.voices[j]? = s.voices[j]?

/-- R116 (derived in the spec; reset values are decision D13, log 5): from reset, up to `N` note-ons bind voice `k` to the
`k`-th note, in order, and leave the other voices at reset. -/
def Obligations.NoteOnsFromResetFillTheVoicesInOrder : Prop :=
  ∀ (c : Config) (notes : List Note), c.wf = true → notes.length ≤ c.n →
    ∃ t : State, Runs (2 * notes.length)
        ((State.resetWith c).feed (notes.flatMap fun n => [encode .stNoteOn, encode (.data n)])) t ∧
      t.inputs = [] ∧ t.emitted = [] ∧ t.voices.length = c.n ∧
      (∀ (k : Nat) (n : Note), notes[k]? = some n → t.voices[k]? = some
        { active := true, note := n, step := c.pitch.getD n.toNat 0#16, acc := 0#16,
          tidx := selectTable c.maxTable (c.pitch.getD n.toNat 0#16) }) ∧
      (∀ k : Nat, notes.length ≤ k → k < c.n → t.voices[k]? = some Voice.reset)

/-- More than R116's release (derived in the spec), which says only that no voice is left active; from every state that
meets the invariant: where no voice sounds the note and one is free, Note-On then Note-Off of it leaves every voice as
it was but for a stale note. That the voice gets back its `acc` rests on decision D14 (log 17), and its `tidx` on the
refresh at note-off (C6, log 24). -/
def Obligations.NoteOnThenNoteOffLeavesOnlyAStaleNote : Prop :=
  ∀ (s : State) (b : Note) (rest : List Input), s.Inv → (∃ v ∈ s.voices, v.active = false) →
    (∀ v ∈ s.voices, v.active = true → v.note ≠ b) →
    s.inputs = .event (encode .stNoteOn) :: .event (encode (.data b)) ::
      .event (encode .stNoteOff) :: .event (encode (.data b)) :: rest →
    ∃ t : State, Runs 4 s t ∧ List.Forall₂ Voice.SameButStaleNote s.voices t.voices ∧
      t.parser.status = .expectingNoteOffData ∧ t.inputs = rest ∧ t.emitted = s.emitted

/-- R26: at most `N` voices are active at once. -/
def Obligations.AtMostNVoicesAreActive : Prop :=
  ∀ s : State, s.Inv → s.voices.countP (·.active) ≤ s.cfg.n

/-! ### Reset and the whole machine -/

/-- R171 of 70_reset_and_hazards.md: the parser is reset to `(status = 0, data_count = 0)` at power-up and whenever a
status byte outside the recognised set arrives. -/
def Obligations.ParserResetsAtPowerUpAndOnOtherStatus : Prop :=
  (∀ c : Config, (State.resetWith c).parser.status.byte = 0x00#8 ∧ (State.resetWith c).parser.dc = 0) ∧
  (∀ (s t : State) (rest : List Input), s.inputs = .reset :: rest → step s = .next t →
    t.parser.status.byte = 0x00#8 ∧ t.parser.dc = 0) ∧
  (∀ (s : State) (ev : EventWord), 0x80 ≤ ev.toNat → ev.toNat < 0x100 → ev.toNat ≠ 0x80 → ev.toNat ≠ 0x90 →
    ∃ t : State, exec (decode ev) s = .next t ∧ t.parser.status.byte = 0x00#8 ∧ t.parser.dc = 0)

/-- 10_state.md R33, 70_reset_and_hazards.md R170 (the voices' zeros are decision D13, log 5; what stays of inputs and
samples is the model's choice, log 11): the reset input sets every register and emits nothing. -/
def Obligations.ResetInputSetsEveryRegister : Prop :=
  ∀ (s : State) (rest : List Input), s.cfg.wf = true → s.inputs = .reset :: rest →
    step s = .next
      { cfg := s.cfg, voices := List.replicate s.cfg.n { active := false, note := 0, step := 0, acc := 0, tidx := 0 },
        parser := { status := .idle, dc := 0 }, inputs := rest, emitted := s.emitted }

/-- 00_scope.md R6, 60_exceptions.md R156 (decision D25): an ill-formed configuration is refused at reset, by the
reset input and at boot; a well-formed one boots into the reset state (70_reset_and_hazards.md R172). -/
def Obligations.OnlyWellFormedConfigurationsPassReset : Prop :=
  (∀ (s : State) (rest : List Input), s.cfg.wf = false → s.inputs = .reset :: rest →
    step s = .refused .illFormedConfiguration) ∧
  (∀ c : Config, c.wf = false → boot c = .refused .illFormedConfiguration) ∧
  (∀ c : Config, c.wf = true → boot c = .next (State.resetWith c))

/-- R165 of 60_exceptions.md (log 2): with no input the block holds all its state. -/
def Obligations.IdleHoldsAllState : Prop :=
  ∀ s : State, s.inputs = [] → step s = .next s

/-- 00_scope.md R10, 20_memory.md R48: a step takes the next event word and runs exactly the event it decodes to, with
that word gone from the sequence (log 1). -/
def Obligations.StepRunsTheDecodedEvent : Prop :=
  (∀ (s : State) (ev : EventWord) (rest : List Input), s.inputs = .event ev :: rest →
    step s = exec (decode ev) { s with inputs := rest }) ∧
  (∀ (s : State) (i : Instr) (rest : List Input), i.wf = true → s.inputs = .event (encode i) :: rest →
    step s = exec i { s with inputs := rest })

/-- R159 of 60_exceptions.md (decision D3, log 21): of a TICK and a BYTE that arrive together the TICK runs first, on the
state before, and the BYTE on what it leaves. -/
def Obligations.TogetherTheTickRunsFirst : Prop :=
  ∀ (s : State) (b : Byte), s.Inv → s.inputs = [] →
    ∃ t u : State, exec (.tick 0#8) s = .next t ∧ exec (decodeByte b) t = .next u ∧ Runs 2 (s.deliver (.together b)) u

/-- The invariant holds after reset under every well-formed configuration (R24, R25 of 10_state.md; the voices' reset
values are decision D13, log 5), and State.reset, whose configuration is the model's choice (log 4), meets it. -/
def Obligations.ResetMeetsTheInvariant : Prop :=
  (∀ c : Config, c.wf = true → (State.resetWith c).Inv) ∧ State.reset.Inv

/-- 10_state.md R24, R25, 43_midi_parser.md R137: every step keeps the invariant: exactly `N` voices, no torn pair (after
a note-off by its refresh, C6, log 24), inactive voices silent, the count 0 in `Idle` and below its modulus (D7, log
15). -/
def Obligations.EveryStepKeepsTheInvariant : Prop :=
  ∀ s t : State, s.Inv → step s = .next t → t.Inv

/-- R156 of 60_exceptions.md (derived in the spec): from every state that meets the invariant every input has a next
state, with at most one sample, and a sample exactly when the input is a TICK. -/
def Obligations.EveryStepCompletes : Prop :=
  ∀ s : State, s.Inv → ∃ t : State, step s = .next t ∧
    ((∃ b, t.emitted = s.emitted ++ [b]) ↔ ∃ ev rest, s.inputs = .event ev :: rest ∧ isTick ev = true) ∧
    ((∃ b, t.emitted = s.emitted ++ [b]) ∨ t.emitted = s.emitted)

/-- 20_memory.md R54, 60_exceptions.md R156 and R160 (D1, log 19): every sequence of events runs to its end, keeps the
invariant, and emits exactly one sample for each TICK. -/
def Obligations.EverySequenceRunsWithOneSamplePerTick : Prop :=
  ∀ (s : State) (evs : List EventWord) (rest : List Input), s.Inv → s.inputs = evs.map .event ++ rest →
    ∃ t : State, Runs evs.length s t ∧ t.Inv ∧ t.inputs = rest ∧
      t.emitted.length = s.emitted.length + evs.countP isTick

/-- R21 of 10_state.md (derived in the spec): the note of an inactive voice has no effect on any later state or output,
on any run. -/
def Obligations.StaleNotesAreNeverObserved : Prop :=
  ∀ (k : Nat) (s s' t : State), s.SameButStaleNotes s' → Runs k s t →
    ∃ t' : State, Runs k s' t' ∧ t.SameButStaleNotes t'

/-- R29 of 10_state.md (derived in the spec): with `DC_LIMIT = none`, one bit that says whether the count is 0 is all a
run can observe of it. -/
def Obligations.OneBitOfTheCountSuffices : Prop :=
  ∀ (k : Nat) (s s' t : State), s.cfg.dcLimit = none → s.SameButCount s' → Runs k s t →
    ∃ t' : State, Runs k s' t' ∧ t.SameButCount t'

/-- R54 of 20_memory.md, R100 of 41_oscillator_mixer.md (log 3): a run only appends samples, and neither they nor any
register depend on what was emitted before: the history is no register. -/
def Obligations.EmittedHistoryIsNeverRead : Prop :=
  ∀ (k : Nat) (s t : State), Runs k s t →
    ∃ suffix, t.emitted = s.emitted ++ suffix ∧
      ∀ history, Runs k { s with emitted := history } { t with emitted := history ++ suffix }

/-! ### Program text (30_encoding.md R68) -/

/-- R68 (decision D26, log 26): what each line assembles to, and that a note or velocity above 127 is refused. -/
def Obligations.ProgramLinesAssembleToTheirWords : Prop :=
  (∀ x, x ≤ 255 → Line.words (.byte x) = some [BitVec.ofNat 9 x]) ∧
  (∀ n v, n ≤ 127 → v ≤ 127 →
    Line.words (.noteOnVel n v) = some [0x090#9, BitVec.ofNat 9 n, BitVec.ofNat 9 v] ∧
    Line.words (.noteOffVel n v) = some [0x080#9, BitVec.ofNat 9 n, BitVec.ofNat 9 v]) ∧
  (∀ n, n ≤ 127 →
    Line.words (.noteOn n) = some [0x090#9, BitVec.ofNat 9 n] ∧
    Line.words (.noteOff n) = some [0x080#9, BitVec.ofNat 9 n]) ∧
  (∀ n v, 127 < n ∨ 127 < v → Line.words (.noteOnVel n v) = none ∧ Line.words (.noteOffVel n v) = none) ∧
  (∀ n, 127 < n → Line.words (.noteOn n) = none ∧ Line.words (.noteOff n) = none) ∧
  Line.words .tick = some [0x100#9] ∧ ∀ k, Line.words (.ticks k) = some (List.replicate k 0x100#9)

/-- R68 (decision D26, log 26): `RESET` may appear only as the first line, and a program without refused lines assembles
to the words of its lines in order, after the reset input if it starts with `RESET`. -/
def Obligations.ResetIsOnlyAFirstLine : Prop :=
  (∀ (l : Line) (ls : List Line), Line.reset ∈ ls → assemble (l :: ls) = none) ∧
  (∀ (ls : List Line) (ws : List (List EventWord)), List.Forall₂ (fun l w => l.words = some w) ls ws →
    assemble ls = some (ws.flatten.map .event) ∧ assemble (.reset :: ls) = some (.reset :: ws.flatten.map .event))
end

