-- ==== Sys2Proof/Laws/Config.lean ====
section
/-! SUPPORT. What a well-formed configuration gives, and what the table reads answer under one. -/

namespace Sys2Proof

theorem Config.wf_hasVoice {c : Config} (h : c.wf = true) : 1 ≤ c.n := by
  simp only [Config.wf, Bool.and_eq_true] at h
  exact of_decide_eq_true h.1.1.1.1.1.1

theorem Config.wf_tableBound {c : Config} (h : c.wf = true) : c.maxTable ≤ 32766 := by
  simp only [Config.wf, Bool.and_eq_true] at h
  exact of_decide_eq_true h.1.1.1.1.1.2

theorem Config.wf_tableCount {c : Config} (h : c.wf = true) : c.wt.length = c.maxTable + 1 := by
  simp only [Config.wf, Bool.and_eq_true] at h
  exact of_decide_eq_true h.1.1.1.1.2

theorem Config.wf_tableSize {c : Config} (h : c.wf = true) {t : List Byte} (ht : t ∈ c.wt) : t.length = 256 := by
  simp only [Config.wf, Bool.and_eq_true] at h
  exact of_decide_eq_true (List.all_eq_true.mp h.1.1.1.2 t ht)

theorem Config.wf_pitchSize {c : Config} (h : c.wf = true) : c.pitch.length = 128 := by
  simp only [Config.wf, Bool.and_eq_true] at h
  exact of_decide_eq_true h.1.1.2

theorem Config.wf_mixFits {c : Config} (h : c.wf = true) : (c.n * 255) >>> c.mixShift ≤ 255 := by
  simp only [Config.wf, Bool.and_eq_true] at h
  exact of_decide_eq_true h.1.2

/-- `(t * 256 + i) / 256 = t` and its remainder is `i`, for an entry index. -/
theorem flatAddress_split (t i : Nat) (hi : i < 256) : (t * 256 + i) / 256 = t ∧ (t * 256 + i) % 256 = i := by
  omega

namespace Machine

/-- A read inside the Wavetable Set answers a byte. -/
theorem memReadWT_isSome {c : Config} (h : c.wf = true) {t i : Nat} (ht : t ≤ c.maxTable) (hi : i < 256) :
    ∃ x, memReadWT c (t * 256 + i) = some x := by
  obtain ⟨hq, hr⟩ := flatAddress_split t i hi
  have hlen : t < c.wt.length := by have := c.wf_tableCount h; omega
  have hsize : (c.wt[t]).length = 256 := c.wf_tableSize h (List.getElem_mem hlen)
  exact ⟨(c.wt[t])[i]'(by omega), by simp [memReadWT, hq, hr, hlen, hsize, hi]⟩

/-- A read beyond the last table answers nothing. -/
theorem memReadWT_none {c : Config} (h : c.wf = true) {t i : Nat} (ht : c.maxTable < t) (hi : i < 256) :
    memReadWT c (t * 256 + i) = none := by
  obtain ⟨hq, -⟩ := flatAddress_split t i hi
  have hlen : c.wt.length ≤ t := by have := c.wf_tableCount h; omega
  simp [memReadWT, hq, List.getElem?_eq_none hlen]

end Machine

end Sys2Proof
end

