-- ==== Sys2Proof/Laws/State.lean ====
section
/-! SUPPORT. One lemma for each field of State and Voice under each update, so that no proof unfolds a record update. -/

namespace Sys2Proof.Machine

@[simp] theorem State.withVoices_cfg (s : State) (vs : List Voice) : (s.withVoices vs).cfg = s.cfg := rfl
@[simp] theorem State.withVoices_voices (s : State) (vs : List Voice) : (s.withVoices vs).voices = vs := rfl
@[simp] theorem State.withVoices_parser (s : State) (vs : List Voice) : (s.withVoices vs).parser = s.parser := rfl
@[simp] theorem State.withVoices_inputs (s : State) (vs : List Voice) : (s.withVoices vs).inputs = s.inputs := rfl
@[simp] theorem State.withVoices_emitted (s : State) (vs : List Voice) : (s.withVoices vs).emitted = s.emitted := rfl

@[simp] theorem State.withParser_cfg (s : State) (p : Parser) : (s.withParser p).cfg = s.cfg := rfl
@[simp] theorem State.withParser_voices (s : State) (p : Parser) : (s.withParser p).voices = s.voices := rfl
@[simp] theorem State.withParser_parser (s : State) (p : Parser) : (s.withParser p).parser = p := rfl
@[simp] theorem State.withParser_inputs (s : State) (p : Parser) : (s.withParser p).inputs = s.inputs := rfl
@[simp] theorem State.withParser_emitted (s : State) (p : Parser) : (s.withParser p).emitted = s.emitted := rfl

@[simp] theorem State.withInputs_cfg (s : State) (is : List Input) : (s.withInputs is).cfg = s.cfg := rfl
@[simp] theorem State.withInputs_voices (s : State) (is : List Input) : (s.withInputs is).voices = s.voices := rfl
@[simp] theorem State.withInputs_parser (s : State) (is : List Input) : (s.withInputs is).parser = s.parser := rfl
@[simp] theorem State.withInputs_inputs (s : State) (is : List Input) : (s.withInputs is).inputs = is := rfl
@[simp] theorem State.withInputs_emitted (s : State) (is : List Input) : (s.withInputs is).emitted = s.emitted := rfl

@[simp] theorem State.emit_cfg (s : State) (b : Byte) : (s.emit b).cfg = s.cfg := rfl
@[simp] theorem State.emit_voices (s : State) (b : Byte) : (s.emit b).voices = s.voices := rfl
@[simp] theorem State.emit_parser (s : State) (b : Byte) : (s.emit b).parser = s.parser := rfl
@[simp] theorem State.emit_inputs (s : State) (b : Byte) : (s.emit b).inputs = s.inputs := rfl
@[simp] theorem State.emit_emitted (s : State) (b : Byte) : (s.emit b).emitted = s.emitted ++ [b] := rfl

@[simp] theorem State.enterParserState_cfg (s : State) (st : ParserStatus) : (s.enterParserState st).cfg = s.cfg := rfl
@[simp] theorem State.enterParserState_voices (s : State) (st : ParserStatus) : (s.enterParserState st).voices = s.voices := rfl
@[simp] theorem State.enterParserState_parser (s : State) (st : ParserStatus) : (s.enterParserState st).parser = ⟨st, 0⟩ := rfl
@[simp] theorem State.enterParserState_inputs (s : State) (st : ParserStatus) : (s.enterParserState st).inputs = s.inputs := rfl
@[simp] theorem State.enterParserState_emitted (s : State) (st : ParserStatus) : (s.enterParserState st).emitted = s.emitted := rfl

@[simp] theorem State.countData_cfg (s : State) : (s.countData).cfg = s.cfg := rfl
@[simp] theorem State.countData_voices (s : State) : (s.countData).voices = s.voices := rfl
@[simp] theorem State.countData_parser (s : State) : (s.countData).parser = ⟨s.parser.status, incDataCount s.cfg.dcLimit s.parser.dc⟩ := rfl
@[simp] theorem State.countData_inputs (s : State) : (s.countData).inputs = s.inputs := rfl
@[simp] theorem State.countData_emitted (s : State) : (s.countData).emitted = s.emitted := rfl

@[simp] theorem refresh_cfg (s : State) : (refresh s).cfg = s.cfg := rfl
@[simp] theorem refresh_voices (s : State) : (refresh s).voices = s.voices.map (Voice.refreshed s.cfg.maxTable) := rfl
@[simp] theorem refresh_parser (s : State) : (refresh s).parser = s.parser := rfl
@[simp] theorem refresh_inputs (s : State) : (refresh s).inputs = s.inputs := rfl
@[simp] theorem refresh_emitted (s : State) : (refresh s).emitted = s.emitted := rfl

@[simp] theorem State.resetWith_cfg (c : Config) : (State.resetWith c).cfg = c := rfl
@[simp] theorem State.resetWith_voices (c : Config) : (State.resetWith c).voices = List.replicate c.n Voice.reset := rfl
@[simp] theorem State.resetWith_parser (c : Config) : (State.resetWith c).parser = ⟨.idle, 0⟩ := rfl
@[simp] theorem State.resetWith_inputs (c : Config) : (State.resetWith c).inputs = [] := rfl
@[simp] theorem State.resetWith_emitted (c : Config) : (State.resetWith c).emitted = [] := rfl

@[simp] theorem Voice.advance_active (v : Voice) : (v.advance).active = v.active := rfl
@[simp] theorem Voice.advance_note (v : Voice) : (v.advance).note = v.note := rfl
@[simp] theorem Voice.advance_step (v : Voice) : (v.advance).step = v.step := rfl
@[simp] theorem Voice.advance_acc (v : Voice) : (v.advance).acc = v.acc + v.step := rfl
@[simp] theorem Voice.advance_tidx (v : Voice) : (v.advance).tidx = v.tidx := rfl

@[simp] theorem Voice.refreshed_active (v : Voice) (m : Nat) : (Voice.refreshed m v).active = v.active := rfl
@[simp] theorem Voice.refreshed_note (v : Voice) (m : Nat) : (Voice.refreshed m v).note = v.note := rfl
@[simp] theorem Voice.refreshed_step (v : Voice) (m : Nat) : (Voice.refreshed m v).step = v.step := rfl
@[simp] theorem Voice.refreshed_acc (v : Voice) (m : Nat) : (Voice.refreshed m v).acc = v.acc := rfl
@[simp] theorem Voice.refreshed_tidx (v : Voice) (m : Nat) : (Voice.refreshed m v).tidx = selectTable m v.step := rfl

@[simp] theorem Voice.bound_active (v : Voice) (n : Note) (p : Phase) : (Voice.bound n p v).active = true := rfl
@[simp] theorem Voice.bound_note (v : Voice) (n : Note) (p : Phase) : (Voice.bound n p v).note = n := rfl
@[simp] theorem Voice.bound_step (v : Voice) (n : Note) (p : Phase) : (Voice.bound n p v).step = p := rfl
@[simp] theorem Voice.bound_acc (v : Voice) (n : Note) (p : Phase) : (Voice.bound n p v).acc = v.acc := rfl
@[simp] theorem Voice.bound_tidx (v : Voice) (n : Note) (p : Phase) : (Voice.bound n p v).tidx = v.tidx := rfl

@[simp] theorem Voice.released_active (v : Voice) : (v.released).active = false := rfl
@[simp] theorem Voice.released_note (v : Voice) : (v.released).note = v.note := rfl
@[simp] theorem Voice.released_step (v : Voice) : (v.released).step = 0#16 := rfl
@[simp] theorem Voice.released_acc (v : Voice) : (v.released).acc = v.acc := rfl
@[simp] theorem Voice.released_tidx (v : Voice) : (v.released).tidx = v.tidx := rfl

@[simp] theorem Voice.reset_active : Voice.reset.active = false := rfl
@[simp] theorem Voice.reset_note : Voice.reset.note = 0#7 := rfl
@[simp] theorem Voice.reset_step : Voice.reset.step = 0#16 := rfl
@[simp] theorem Voice.reset_acc : Voice.reset.acc = 0#16 := rfl
@[simp] theorem Voice.reset_tidx : Voice.reset.tidx = 0 := rfl

@[simp] theorem State.withInputs_withInputs (s : State) (a b : List Input) :
    (s.withInputs a).withInputs b = s.withInputs b := rfl
@[simp] theorem State.withInputs_self (s : State) : s.withInputs s.inputs = s := rfl

end Sys2Proof.Machine
end

