-- ==== Sys2Proof/Laws/Ops.lean ====
section
/-! SUPPORT. For each shared operation, what it can do, said once. -/

namespace Sys2Proof.Machine

/-! ### Table Selector -/

@[simp] theorem selectTable_zero (m : Nat) : selectTable m 0#16 = 0 := rfl

theorem selectTable_le_max (m : Nat) (step : Phase) : selectTable m step ≤ m := by
  unfold selectTable
  split
  · omega
  · dsimp only
    split
    · omega
    · split <;> omega

/-! ### Voice Allocator -/

@[simp] theorem Voice.refreshed_refreshed (m : Nat) (v : Voice) :
    Voice.refreshed m (Voice.refreshed m v) = Voice.refreshed m v := rfl

/-- Refreshing a voice that already holds its index changes nothing. -/
theorem Voice.refreshed_eq_self {m : Nat} {v : Voice} (h : v.tidx = selectTable m v.step) :
    Voice.refreshed m v = v := by
  cases v
  simp_all [Voice.refreshed]

/-- `noteOn` binds the first free slot and refreshes, or changes nothing. -/
theorem noteOn_cases (n : Note) (s : State) :
    (∃ k, s.voices.findIdx? Voice.isFree = some k ∧
      noteOn n s = refresh (s.withVoices (s.voices.modify k (Voice.bound n (memReadPITCH s.cfg n))))) ∨
    (s.voices.findIdx? Voice.isFree = none ∧ noteOn n s = s) := by
  unfold noteOn
  split
  · exact .inl ⟨_, ‹_›, rfl⟩
  · exact .inr ⟨‹_›, rfl⟩

/-- `noteOff` releases the first matching slot and refreshes, or changes nothing. -/
theorem noteOff_cases (n : Note) (s : State) :
    (∃ k, s.voices.findIdx? (Voice.sounds n) = some k ∧
      noteOff n s = refresh (s.withVoices (s.voices.modify k Voice.released))) ∨
    (s.voices.findIdx? (Voice.sounds n) = none ∧ noteOff n s = s) := by
  unfold noteOff
  split
  · exact .inl ⟨_, ‹_›, rfl⟩
  · exact .inr ⟨‹_›, rfl⟩

/-- A verb writes the voice register file and nothing else of the state. -/
theorem runVerb_frame (verb : Option Verb) (s : State) :
    runVerb verb s = s.withVoices (runVerb verb s).voices := by
  rcases verb with _ | ⟨n⟩ | ⟨n⟩
  · rfl
  · rcases noteOn_cases n s with ⟨k, -, h⟩ | ⟨-, h⟩ <;> simp only [runVerb, h] <;> rfl
  · rcases noteOff_cases n s with ⟨k, -, h⟩ | ⟨-, h⟩ <;> simp only [runVerb, h] <;> rfl

theorem map_modify_of_keep {α β : Type} (f : α → β) (g : α → α) (h : ∀ a, f (g a) = f a) (l : List α) (k : Nat) :
    (l.modify k g).map f = l.map f := by
  induction l generalizing k with
  | nil => simp
  | cons a l ih => cases k <;> simp [h, ih]

/-- No verb writes an accumulator (42_voice_allocator.md R115). -/
theorem runVerb_acc (verb : Option Verb) (s : State) :
    (runVerb verb s).voices.map Voice.acc = s.voices.map Voice.acc := by
  have keep : ∀ m : Nat, Voice.acc ∘ Voice.refreshed m = Voice.acc := fun _ => rfl
  rcases verb with _ | ⟨n⟩ | ⟨n⟩
  · rfl
  · rcases noteOn_cases n s with ⟨k, -, h⟩ | ⟨-, h⟩
    · simpa [runVerb, h, keep] using map_modify_of_keep Voice.acc (Voice.bound n (memReadPITCH s.cfg n)) (fun _ => rfl) s.voices k
    · simp [runVerb, h]
  · rcases noteOff_cases n s with ⟨k, -, h⟩ | ⟨-, h⟩
    · simpa [runVerb, h, keep] using map_modify_of_keep Voice.acc Voice.released (fun _ => rfl) s.voices k
    · simp [runVerb, h]

/-! ### Parser -/

/-- `DATA` does nothing in `Idle`, and otherwise runs at most one verb and counts. -/
theorem execData_cases (b : Note) (s : State) :
    (s.parser.status = .idle ∧ execData b s = .next s) ∨
    (s.parser.status ≠ .idle ∧ execData b s = .next (runVerb (dataVerb s.parser b) s).countData) := by
  unfold execData
  split <;> simp_all

/-! ### Oscillator bank and mixer -/

theorem Voice.sampleIndex_toNat (v : Voice) : v.sampleIndex.toNat = v.acc.toNat / 256 := by
  have := v.acc.isLt
  simp only [Voice.sampleIndex, BitVec.extractLsb'_toNat, Nat.shiftRight_eq_div_pow]
  omega

theorem mixSum_cons (c : Config) (v : Voice) (vs : List Voice) {x : Byte} {sum : Nat}
    (hx : memReadWT c v.sampleAddress = some x) (hs : mixSum c vs = some sum) :
    mixSum c (v :: vs) = some (x.toNat + sum) := by
  simp [mixSum, hx, hs]

/-- With every table index in range the mix is a sum of at most 255 for each voice. -/
theorem mixSum_isSome {c : Config} (h : c.wf = true) (vs : List Voice) (hv : ∀ v ∈ vs, v.tidx ≤ c.maxTable) :
    ∃ sum, mixSum c vs = some sum ∧ sum ≤ vs.length * 255 := by
  induction vs with
  | nil => exact ⟨0, rfl, by simp⟩
  | cons v vs ih =>
    obtain ⟨sum, hs, hle⟩ := ih fun w hw => hv w (List.mem_cons_of_mem v hw)
    obtain ⟨x, hx⟩ := memReadWT_isSome h (hv v List.mem_cons_self) v.sampleIndex.isLt
    have := x.isLt
    exact ⟨x.toNat + sum, mixSum_cons c v vs hx hs, by simp only [List.length_cons]; omega⟩

theorem sampleOf_isSome {c : Config} (h : c.wf = true) {sum : Nat} (hs : sum ≤ c.n * 255) :
    sampleOf c sum = some (BitVec.ofNat 8 (sum >>> c.mixShift)) ∧ sum >>> c.mixShift ≤ 255 := by
  have hle : sum >>> c.mixShift ≤ 255 := by
    have := c.wf_mixFits h
    simp only [Nat.shiftRight_eq_div_pow] at this ⊢
    exact le_trans (Nat.div_le_div_right hs) this
  exact ⟨by simp [sampleOf, hle], hle⟩

/-- `TICK` advances and emits, or stops for one of two reasons. -/
theorem execTick_cases (low : Byte) (s : State) :
    (∃ sum b, mixSum s.cfg (s.voices.map Voice.advance) = some sum ∧ sampleOf s.cfg sum = some b ∧
      execTick low s = .next ((s.withVoices (s.voices.map Voice.advance)).emit b)) ∨
    (mixSum s.cfg (s.voices.map Voice.advance) = none ∧ execTick low s = .fault .wavetableOutOfRange) ∨
    (∃ sum, mixSum s.cfg (s.voices.map Voice.advance) = some sum ∧ sampleOf s.cfg sum = none ∧
      execTick low s = .fault .sampleOverflow) := by
  unfold execTick
  dsimp only
  split
  · exact .inr (.inl ⟨‹_›, rfl⟩)
  · rename_i sum hm
    split
    · exact .inr (.inr ⟨sum, hm, ‹_›, rfl⟩)
    · exact .inl ⟨sum, _, hm, ‹_›, rfl⟩

/-! ### Reset and step -/

theorem powerUp_wf {s : State} (h : s.cfg.wf = true) :
    powerUp s = .next { State.resetWith s.cfg with inputs := s.inputs, emitted := s.emitted } := by
  unfold powerUp
  rw [if_pos h]
  rfl

theorem powerUp_illFormed {s : State} (h : s.cfg.wf = false) : powerUp s = .refused .illFormedConfiguration := by
  simp [powerUp, h]

/-- A step does nothing, resets, or runs one event. -/
theorem step_cases (s : State) :
    (s.inputs = [] ∧ step s = .next s) ∨
    (∃ rest, s.inputs = .reset :: rest ∧ step s = powerUp (s.withInputs rest)) ∨
    (∃ ev rest, s.inputs = .event ev :: rest ∧ step s = exec (decode ev) (s.withInputs rest)) := by
  unfold step
  split
  · exact .inl ⟨‹_›, rfl⟩
  · exact .inr (.inl ⟨_, ‹_›, rfl⟩)
  · exact .inr (.inr ⟨_, _, ‹_›, rfl⟩)

end Sys2Proof.Machine
end

