-- ==== Sys2Proof/Laws/PerInstr.lean ====
section
/-! SUPPORT. The family RowOf: every well-formed event is encoded inside its own row of the byte map, and in no other
(30_encoding.md R64). -/

namespace Sys2Proof.Laws.RowOf

/-- The rows of the byte map that cover the event's word carry the event's mnemonic, and there is just one. -/
def Statement (i : Instr) : Prop :=
  i.wf = true → (byteMap.filter (·.covers (encode i))).map (·.mnemonic) = [i.mnemonic]

theorem stNoteOn : Statement .stNoteOn := by
  unfold Statement
  decide

theorem stNoteOff : Statement .stNoteOff := by
  unfold Statement
  decide

theorem stOther (sel : BitVec 7) : Statement (.stOther sel) := by
  revert sel
  unfold Statement
  decide

theorem data (b : Note) : Statement (.data b) := by
  revert b
  unfold Statement
  decide

theorem tick (low : Byte) : Statement (.tick low) := by
  revert low
  unfold Statement
  decide

end Sys2Proof.Laws.RowOf
end

