-- ==== Sys2Proof/Tests/Slice0.lean ====
section
/-! SUPPORT. The model's own tests: the ill-formed terms WellFormed refuses, words written out from the encodings, the
vectors of 95_test_vectors.md on one step, and a witness for each statement's hypotheses. -/

namespace Sys2Proof.Tests

open Sys2Proof Sys2Proof.Machine

/-! ### WellFormed: an ill-formed term for each check -/

theorem test_wf_refuses_noteOff_as_stOther : (Instr.stOther 0x00#7).wf = false := by decide
theorem test_wf_refuses_noteOn_as_stOther : (Instr.stOther 0x10#7).wf = false := by decide
theorem test_wf_accepts_channel_two : (Instr.stOther 0x11#7).wf = true := by decide

/-- A small configuration: two voices, one silent table. -/
def small : Config where
  n := 2
  maxTable := 0
  wt := [List.replicate 256 0#8]
  pitch := List.replicate 128 0#16
  mixShift := 1
  dcLimit := none
  fTick := 16000

theorem test_wf_accepts_small : small.wf = true := by decide +kernel
theorem test_wf_accepts_TC : testConfig.wf = true := by decide +kernel

theorem test_wf_refuses_no_voice :
    ({ small with n := 0 }).hasVoice = false ∧ ({ small with n := 0 }).wf = false := by decide +kernel

theorem test_wf_refuses_table_bound :
    ({ small with maxTable := 32767 }).tableBound = false ∧ ({ small with maxTable := 32767 }).wf = false := by
  decide +kernel

theorem test_wf_refuses_table_count :
    ({ small with wt := [] }).tableCount = false ∧ ({ small with wt := [] }).wf = false := by decide +kernel

theorem test_wf_refuses_table_size :
    ({ small with wt := [List.replicate 255 0#8] }).tableSizes = false ∧
    ({ small with wt := [List.replicate 255 0#8] }).wf = false := by decide +kernel

theorem test_wf_refuses_pitch_size :
    ({ small with pitch := [] }).pitchSize = false ∧ ({ small with pitch := [] }).wf = false := by decide +kernel

/-- C4: nearest rounding gives shift 2 for N = 5, and 5 * 255 >> 2 = 318. -/
theorem test_wf_refuses_mix_overflow :
    ({ small with n := 5, mixShift := 2 }).mixFits = false ∧ ({ small with n := 5, mixShift := 2 }).wf = false := by
  decide +kernel

theorem test_wf_refuses_no_tick_rate :
    ({ small with fTick := 0 }).tickPositive = false ∧ ({ small with fTick := 0 }).wf = false := by decide +kernel

/-! ### Decode: words written out bit by bit from spec/opcode_table.json -/

theorem test_decode_stNoteOn : decode 0b010010000#9 = .stNoteOn := by decide
theorem test_decode_stNoteOff : decode 0b010000000#9 = .stNoteOff := by decide
theorem test_decode_stOther : decode 0b011111000#9 = .stOther 0b1111000#7 := by decide
theorem test_decode_data : decode 0b000111100#9 = .data 60#7 := by decide
theorem test_decode_tick : decode 0b110010000#9 = .tick 0x90#8 := by decide
theorem test_decode_rejects_by_name : decodeBits 0x200 = .error .notAnEventWord := by decide
theorem test_decodeTableWord : decodeTableWord 16 0x090 = some .stNoteOn ∧ decodeTableWord 16 0x200 = none := by decide

/-! ### Operations (95_test_vectors.md 2.2, 2.5, S8) -/

/-- Section 2.2, MAX_TABLE = 7. -/
theorem test_selectTable_TC : [0, 1, 3641, 4097, 5120, 15360, 16385, 32768, 32769].map
    (fun n => selectTable 7 (BitVec.ofNat 16 n)) = [0, 7, 7, 6, 5, 1, 0, 0, 0] := by decide
/-- Section 2.2, MAX_TABLE = 100. -/
theorem test_selectTable_unclamped : selectTable 100 327#16 = 99 ∧ selectTable 100 3276#16 = 9 := by decide
/-- MP6, MP19. -/
theorem test_incDataCount : incDataCount none 1 = 2 ∧ incDataCount (some 256) 255 = 0 := by decide
/-- S8, 00_scope.md R5: 3 for 5 to 8 voices. -/
theorem test_ceilLog2 : [1, 2, 4, 5, 6, 8, 9].map ceilLog2 = [0, 1, 2, 3, 3, 3, 4] := by decide
/-- 20_memory.md R53, 60_exceptions.md R159. -/
theorem test_arrivals : (Arrival.lost 0x90#8).events = [] ∧ (Arrival.together 0x3C#8).events = [0x100#9, 0x03C#9] := by
  decide
/-- Program A of section 3. -/
theorem test_assemble_program_A : assemble [.reset, .noteOn 60, .ticks 3, .noteOff 60, .ticks 2] =
    some (.reset :: [0x090, 0x03C, 0x100, 0x100, 0x100, 0x080, 0x03C, 0x100, 0x100].map Input.event) := by decide
theorem test_assemble_refuses_note_128 : assemble [.reset, .noteOn 128] = none := by decide

/-! ### One step -/

/-- The next state of an outcome, if there is one. -/
def next? : Host.Outcome State Fault Refusal → Option State
  | .next t => some t
  | _ => none

/-- A state under TC: the given voices, the others at reset. -/
def tc (voices : List Voice) (status : ParserStatus) (dc : Nat) : State where
  cfg := testConfig
  voices := voices ++ List.replicate (6 - voices.length) Voice.reset
  parser := { status := status, dc := dc }
  inputs := []
  emitted := []

/-- A voice under TC with its index for its step. -/
def voice (active : Bool) (note : Note) (step acc : Phase) : Voice :=
  { active := active, note := note, step := step, acc := acc, tidx := selectTable 7 step }

/-- T1: wrap in the advance, and the lookup after it. -/
theorem test_tick_T1 : (next? (exec (.tick 0) (tc [voice true 2 0x0200 0xFF00] .idle 0))).map
    (fun t => (t.emitted, t.voices.head?.map Voice.acc)) = some ([28], some 0x0100) := by decide +kernel
/-- T7: three voices, one of them a frozen DC bias. -/
theorem test_tick_T7 : (next? (exec (.tick 0xFF)
    (tc [voice true 60 0x3C00 0, voice true 20 0x1400 0, voice false 0 0 0x5000] .idle 0))).map State.emitted
    = some [26] := by decide +kernel
/-- AL8: the freed slot is taken again and keeps its phase; MP5 the count. -/
theorem test_data_AL8 : (next? (exec (.data 72)
    (tc [voice false 60 0 0xB400, voice true 64 0x4000 0] .expectingNoteOnData 0))).map
    (fun t => (t.voices.take 2, t.parser.dc)) =
    some ([⟨true, 72, 0x4800, 0xB400, 0⟩, ⟨true, 64, 0x4000, 0, 1⟩], 1) := by decide +kernel
/-- AL6: the inactive voice with the stale note is skipped. -/
theorem test_data_AL6 : (next? (exec (.data 60)
    (tc [voice false 60 0 0, voice true 60 0x3C00 0x7800] .expectingNoteOffData 0))).map
    (fun t => t.voices.take 2) = some [⟨false, 60, 0, 0, 0⟩, ⟨false, 60, 0, 0x7800, 0⟩] := by decide +kernel
/-- MP8. -/
theorem test_stNoteOn_MP8 : (next? (exec .stNoteOn (tc [] .expectingNoteOnData 5))).map
    (fun t => (t.parser.status.byte, t.parser.dc)) = some (0x90, 0) := by decide
/-- MP9. -/
theorem test_stNoteOff_MP9 : (next? (exec .stNoteOff (tc [] .expectingNoteOnData 1))).map
    (fun t => (t.parser.status.byte, t.parser.dc)) = some (0x80, 0) := by decide
/-- MP11: channel 2 Note-On. -/
theorem test_stOther_MP11 : (next? (exec (decode 0x091) (tc [] .expectingNoteOnData 0))).map
    (fun t => (t.parser.status.byte, t.parser.dc)) = some (0x00, 0) := by decide
/-- 70_reset_and_hazards.md R173 under TC: the word placed first is the first to run. -/
theorem test_withFetchWord_runs_first : (next? (step (State.reset.withFetchWord 16 0x100))).map
    (fun t => (t.emitted, t.inputs)) = some ([0], []) := by decide +kernel

/-! ### Witnesses: a state and operands that meet each statement's hypotheses -/

/-- Two voices sound note 60, one is released with its phase kept, three are at reset. -/
def sounding : State :=
  tc [voice true 60 0x3C00 0x7800, voice true 60 0x3C00 0x3C00, voice false 40 0 0x5000] .expectingNoteOnData 0

theorem sounding_inv : sounding.Inv where
  configured := test_wf_accepts_TC
  fileSize := by decide
  coherent := by
    unfold Voice.Coherent
    decide
  silent := by
    unfold Voice.SilentWhenInactive
    decide
  idleCount := by decide
  countBound := fun _ h _ => nomatch h

/-- The same machine with other inputs still to come. -/
theorem inv_withInputs {s : State} (h : s.Inv) (is : List Input) : (s.withInputs is).Inv :=
  ⟨h.configured, h.fileSize, h.coherent, h.silent, h.idleCount, h.countBound⟩

/-- One voice at step 0x4000, with four ticks to come. -/
def tickingState : State :=
  (tc [voice true 64 0x4000 0] .expectingNoteOnData 1).withInputs (List.replicate 4 (.event tickEvent))

theorem tickingState_inv : tickingState.Inv where
  configured := test_wf_accepts_TC
  fileSize := by decide
  coherent := by
    unfold Voice.Coherent
    decide
  silent := by
    unfold Voice.SilentWhenInactive
    decide
  idleCount := by decide
  countBound := fun _ h _ => nomatch h

theorem sounding_inRange : sounding.TidxInRange := by
  unfold State.TidxInRange
  decide

theorem witness_BytesDecodeByExactEquality :
    decodeByte 0x7F = .data 0x7F ∧ decodeByte 0x80 = .stNoteOff ∧ decodeByte 0x81 = .stOther 0x01 ∧
    decodeByte 0x8F = .stOther 0x0F ∧ decodeByte 0x90 = .stNoteOn ∧ decodeByte 0x91 = .stOther 0x11 ∧
    decodeByte 0xFF = .stOther 0x7F := by decide
theorem witness_EventWordSelectsByteOrTick :
    decode 0x0FF = decodeByte 0xFF ∧ decode 0x100 = .tick 0 ∧ decode 0x1FF = .tick 0xFF := by decide
theorem witness_EncodeThenDecodeReturnsTheEvent :
    (Instr.stOther 0x01#7).wf = true ∧ (Instr.stOther 0x7F#7).wf = true ∧ (Instr.data 0x7F#7).wf = true := by decide
theorem witness_SelectTableFollowsItsFormula :
    selectTable 7 0 = 0 ∧ selectTable 7 1 = 7 ∧ selectTable 7 32768 = 0 ∧ selectTable 7 32769 = 0 := by decide
theorem witness_SelectTableBreakpoints :
    (32768 / (1 + 2) + 1 ≤ (10923#16).toNat ∧ (16384#16).toNat ≤ 32768 / (1 + 1)) ∧
    (32768 / (32767 + 2) + 1 ≤ (1#16).toNat ∧ (1#16).toNat ≤ 32768 / (32767 + 1)) ∧
    32768 < (32769#16).toNat := by decide
theorem witness_SelectTableDoesNotRiseWithStep : 1 ≤ (1#16).toNat ∧ (1#16).toNat ≤ (2#16).toNat := by decide
theorem witness_SelectTableBoundsTheHarmonics :
    (1 ≤ (32768#16).toNat ∧ (32768#16).toNat ≤ 32768) ∧ selectTable 7 32768 < 7 ∧ ¬ selectTable 7 1 < 7 := by decide
theorem witness_FlatAddressReadsItsTableEntry : testConfig.wf = true ∧ 7 ≤ testConfig.maxTable ∧ 255 < 256 := by
  decide +kernel
theorem witness_DefaultMixShiftFitsEveryPolyphony : 1 ≤ 1 ∧ ceilLog2 1 = 0 := by decide
theorem witness_NoStepWritesTheConfiguration : ∃ t, step (sounding.withInputs [.event 0x091]) = .next t := ⟨_, rfl⟩
theorem witness_TickEmitsTheMixOfAdvancedVoices :
    sounding.cfg.wf = true ∧ sounding.voices.length = sounding.cfg.n ∧ sounding.TidxInRange :=
  ⟨test_wf_accepts_TC, by decide, sounding_inRange⟩
theorem witness_TickAdvancesEveryPhaseAndNothingElse :
    sounding.cfg.wf = true ∧ sounding.voices.length = sounding.cfg.n ∧ sounding.TidxInRange ∧
    ∃ v, sounding.voices[0]? = some v :=
  ⟨test_wf_accepts_TC, by decide, sounding_inRange, _, rfl⟩
theorem witness_TickStopsOnAnIndexOutsideTheSet :
    ∃ (s : State) (v : Voice), s.cfg.wf = true ∧ v ∈ s.voices ∧ s.cfg.maxTable < v.tidx :=
  ⟨tc [⟨false, 0, 0, 0, 8⟩] .idle 0, ⟨false, 0, 0, 0, 8⟩, test_wf_accepts_TC, by decide, by decide⟩
/-- The two states differ in activity, note and parser. -/
theorem witness_SampleDependsOnPhaseStepAndIndexAlone : ∃ (s s' t : State) (b : Byte), s ≠ s' ∧ s.cfg = s'.cfg ∧
    s.voices.map (fun v => (v.acc, v.step, v.tidx)) = s'.voices.map (fun v => (v.acc, v.step, v.tidx)) ∧
    exec (.tick 0) s = .next t ∧ t.emitted = s.emitted ++ [b] :=
  ⟨tc [voice true 2 0x0200 0xFF00] .idle 0, tc [voice false 7 0x0200 0xFF00] .expectingNoteOnData 3, _, 28#8,
    fun h => absurd (congrArg (fun s => s.parser.dc) h) (by decide), rfl, by decide,
    by rfl, by decide +kernel⟩
/-- Step 0x4000 has period 4 (41_oscillator_mixer.md R99). -/
theorem witness_PhaseReturnsExactlyAtItsPeriod : ∃ (s : State) (v : Voice), s.Inv ∧
    s.inputs = List.replicate 4 (.event tickEvent) ++ [] ∧ s.voices[0]? = some v ∧
    2 ^ 16 / Nat.gcd v.step.toNat (2 ^ 16) = 4 :=
  ⟨tickingState, _, tickingState_inv, rfl, rfl, by decide⟩
theorem witness_TicksMoveEachPhaseLinearly : ∃ (s : State) (rest : List Input) (v : Voice), s.Inv ∧
    s.inputs = List.replicate 4 (.event tickEvent) ++ rest ∧ s.voices[1]? = some v :=
  ⟨sounding.withInputs (List.replicate 4 (.event tickEvent) ++ [.reset]), [.reset], _,
    inv_withInputs sounding_inv _, rfl, rfl⟩

/-- One released voice, with its phase kept. -/
def released : State := tc [voice false 60 0 0xB400] .expectingNoteOffData 1

theorem released_inv : released.Inv where
  configured := test_wf_accepts_TC
  fileSize := by decide
  coherent := by
    unfold Voice.Coherent
    decide
  silent := by
    unfold Voice.SilentWhenInactive
    decide
  idleCount := by decide
  countBound := fun _ h _ => nomatch h

theorem witness_ReleasedVoicesGiveAConstantLevel : ∃ s : State, s.Inv ∧ (∀ v ∈ s.voices, v.active = false) ∧
    s.inputs = List.replicate 2 (.event tickEvent) ++ [] :=
  ⟨released.withInputs (List.replicate 2 (.event tickEvent)), inv_withInputs released_inv _, by decide, rfl⟩
theorem witness_ResetMeetsTheInvariant : testConfig.wf = true := test_wf_accepts_TC
theorem witness_TicksAfterResetEmitTheRestLevel : testConfig.wf = true := test_wf_accepts_TC
theorem witness_DataInIdleIsIgnored : (tc [] .idle 0).parser.status = .idle := rfl
theorem witness_LaterDataBytesOnlyCount :
    (tc [] .expectingNoteOnData 2).parser.status ≠ .idle ∧ (tc [] .expectingNoteOnData 2).parser.dc ≠ 0 := by decide
/-- `0x90 n` has been read; velocity 0 and a running-status pair follow. -/
theorem witness_RunningStatusIsNotHonoured : ∃ s : State, s.cfg.dcLimit = none ∧ s.parser.status ≠ .idle ∧
    s.parser.dc ≠ 0 ∧ s.inputs = [0#7, 64#7, 100#7].map (fun b => .event (encode (.data b))) ++ [] :=
  ⟨(tc [] .expectingNoteOnData 1).withInputs ([0#7, 64#7, 100#7].map fun b => .event (encode (.data b))),
    rfl, by decide, by decide, rfl⟩
theorem witness_CountWrapsAtItsLimit : ∃ s : State, s.cfg.dcLimit = some 4 ∧ s.parser.status ≠ .idle ∧
    s.parser.dc ≠ 0 ∧ s.parser.dc < 4 ∧ s.parser.dc + [1#7, 2#7, 3#7].length = 4 ∧
    s.inputs = [1#7, 2#7, 3#7].map (fun b => .event (encode (.data b))) ++ [] :=
  ⟨{ tc [] .expectingNoteOnData 1 with
      cfg := { testConfig with dcLimit := some 4 },
      inputs := [1#7, 2#7, 3#7].map fun b => .event (encode (.data b)) },
    rfl, by decide, by decide, by decide, by decide, rfl⟩
theorem witness_BytesWriteNeitherPhaseNorSample : ∀ low, Instr.data 60 ≠ .tick low := by decide
theorem witness_FirstDataByteBindsTheFirstFreeVoice : ∃ v, sounding.parser.status = .expectingNoteOnData ∧
    sounding.parser.dc = 0 ∧ sounding.voices[2]? = some v ∧ v.active = false ∧
    (∀ j w, j < 2 → sounding.voices[j]? = some w → w.active = true) := by
  refine ⟨_, rfl, rfl, rfl, rfl, fun j w hj hw => ?_⟩
  match j, hj with
  | 0, _ => cases hw; rfl
  | 1, _ => cases hw; rfl

/-- All six voices sound. -/
def full (status : ParserStatus) : State := tc (List.replicate 6 (voice true 60 0x3C00 0)) status 0

theorem witness_UnmetVerbsChangeNothing : (∀ v ∈ (full .idle).voices, v.active = true) ∧
    (∀ v ∈ sounding.voices, v.active = true → v.note ≠ 40#7) := by decide
theorem witness_NoteWithoutAFreeVoiceIsDropped : (full .expectingNoteOnData).parser.status = .expectingNoteOnData ∧
    (full .expectingNoteOnData).parser.dc = 0 ∧ ∀ v ∈ (full .expectingNoteOnData).voices, v.active = true := by decide
theorem witness_FirstDataByteReleasesTheFirstMatch : ∃ (s : State) (v : Voice),
    s.parser.status = .expectingNoteOffData ∧ s.parser.dc = 0 ∧ s.voices[1]? = some v ∧ v.active = true ∧
    v.note = 60#7 ∧ (∀ j w, j < 1 → s.voices[j]? = some w → w.active = true → w.note ≠ 60#7) := by
  refine ⟨tc [voice false 60 0 0, voice true 60 0x3C00 0] .expectingNoteOffData 0, _, rfl, rfl, rfl, rfl, rfl,
    fun j w hj hw => ?_⟩
  match j, hj with
  | 0, _ => cases hw; decide
/-- A released voice still holds note 60. -/
theorem witness_NoteOffWithoutAMatchIsIgnored : ∃ s : State, s.parser.status = .expectingNoteOffData ∧
    s.parser.dc = 0 ∧ ∀ v ∈ s.voices, v.active = true → v.note ≠ 60#7 :=
  ⟨tc [voice false 60 0 0, voice true 61 0x3D00 0] .expectingNoteOffData 0, rfl, rfl, by decide⟩
theorem witness_ByteChangesAtMostOneVoice :
    (∀ low, Instr.data 60 ≠ .tick low) ∧ ∀ v ∈ sounding.voices, v.Coherent sounding.cfg :=
  ⟨by decide, sounding_inv.coherent⟩
theorem witness_NoteOnsFromResetFillTheVoicesInOrder :
    testConfig.wf = true ∧ [20#7, 30#7, 40#7, 50#7, 60#7, 72#7].length ≤ testConfig.n :=
  ⟨test_wf_accepts_TC, by decide⟩
theorem witness_NoteOnThenNoteOffLeavesOnlyAStaleNote : ∃ (s : State) (rest : List Input), s.Inv ∧
    (∃ v ∈ s.voices, v.active = false) ∧ (∀ v ∈ s.voices, v.active = true → v.note ≠ 61#7) ∧
    s.inputs = .event (encode .stNoteOn) :: .event (encode (.data 61#7)) ::
      .event (encode .stNoteOff) :: .event (encode (.data 61#7)) :: rest :=
  ⟨sounding.withInputs [.event (encode .stNoteOn), .event (encode (.data 61#7)), .event (encode .stNoteOff),
      .event (encode (.data 61#7))], [], inv_withInputs sounding_inv _, by decide, by decide, rfl⟩
theorem witness_EveryStepCompletes : sounding.Inv := sounding_inv
theorem witness_AtMostNVoicesAreActive : sounding.Inv := sounding_inv
theorem witness_ParserResetsAtPowerUpAndOnOtherStatus :
    (∃ (s t : State) (rest : List Input), s.inputs = .reset :: rest ∧ step s = .next t) ∧
    (0x80 ≤ (0x081#9).toNat ∧ (0x081#9).toNat < 0x100 ∧ (0x081#9).toNat ≠ 0x80 ∧ (0x081#9).toNat ≠ 0x90) ∧
    (0x80 ≤ (0x0FF#9).toNat ∧ (0x0FF#9).toNat < 0x100 ∧ (0x0FF#9).toNat ≠ 0x80 ∧ (0x0FF#9).toNat ≠ 0x90) :=
  ⟨⟨sounding.withInputs [.reset], _, [], rfl,
    powerUp_wf (s := (sounding.withInputs [.reset]).withInputs []) test_wf_accepts_TC⟩, by decide, by decide⟩
theorem witness_ResetInputSetsEveryRegister : ∃ (s : State) (rest : List Input), s.cfg.wf = true ∧
    s.inputs = .reset :: rest :=
  ⟨sounding.withInputs [.reset, .event 0x100], [.event 0x100], test_wf_accepts_TC, rfl⟩
theorem witness_OnlyWellFormedConfigurationsPassReset :
    (∃ (s : State) (rest : List Input), s.cfg.wf = false ∧ s.inputs = .reset :: rest) ∧ small.wf = true :=
  ⟨⟨(State.resetWith { small with n := 0 }).withInputs [.reset], [], by decide +kernel, rfl⟩, test_wf_accepts_small⟩
theorem witness_IdleHoldsAllState : State.reset.inputs = [] := rfl
theorem witness_StepRunsTheDecodedEvent : ∃ (s : State) (ev : EventWord) (rest : List Input),
    s.inputs = .event ev :: rest ∧ ev = encode .stNoteOn ∧ Instr.stNoteOn.wf = true :=
  ⟨sounding.withInputs [.event 0x090], 0x090, [], rfl, by decide, rfl⟩
theorem witness_TogetherTheTickRunsFirst : sounding.Inv ∧ sounding.inputs = [] := ⟨sounding_inv, rfl⟩
theorem witness_EveryStepKeepsTheInvariant : ∃ t, sounding.Inv ∧ step sounding = .next t := ⟨_, sounding_inv, rfl⟩
theorem witness_EverySequenceRunsWithOneSamplePerTick : ∃ (s : State) (rest : List Input), s.Inv ∧
    s.inputs = [0x090#9, 0x03C#9, 0x100#9, 0x0F8#9].map .event ++ rest :=
  ⟨sounding.withInputs ([0x090#9, 0x03C#9, 0x100#9, 0x0F8#9].map .event), [], inv_withInputs sounding_inv _, rfl⟩
/-- The two states hold different notes in the released voice. -/
theorem witness_StaleNotesAreNeverObserved : ∃ s s' t : State, s ≠ s' ∧ s.SameButStaleNotes s' ∧ Runs 1 s t := by
  refine ⟨(tc [voice false 40 0 0x5000] .idle 0).withInputs [.event 0x090],
    (tc [voice false 41 0 0x5000] .idle 0).withInputs [.event 0x090], _, ?_, ⟨rfl, ?_, rfl, rfl, rfl⟩, rfl⟩
  · exact fun h => absurd (congrArg (fun s => s.voices.head?.map Voice.note) h) (by decide)
  · refine .cons ⟨rfl, rfl, rfl, rfl, nofun⟩ ?_
    exact List.forall₂_same.2 fun v _ => ⟨rfl, rfl, rfl, rfl, fun _ => rfl⟩
/-- The two states hold different counts, neither of them 0. -/
theorem witness_OneBitOfTheCountSuffices : ∃ s s' t : State, s ≠ s' ∧ s.cfg.dcLimit = none ∧ s.SameButCount s' ∧
    Runs 1 s t := by
  refine ⟨(tc [] .expectingNoteOnData 1).withInputs [.event 0x090],
    (tc [] .expectingNoteOnData 2).withInputs [.event 0x090], _, ?_, rfl,
    ⟨rfl, rfl, rfl, by decide, rfl, rfl⟩, rfl⟩
  exact fun h => absurd (congrArg (fun s => s.parser.dc) h) (by decide)
theorem witness_EmittedHistoryIsNeverRead : ∃ s t : State, Runs 1 s t :=
  ⟨sounding.withInputs [.event 0x080], _, rfl⟩
theorem witness_ProgramLinesAssembleToTheirWords :
    Line.words (.noteOnVel 127 127) = some [0x090, 0x07F, 0x07F] ∧ Line.words (.noteOnVel 127 128) = none ∧
    Line.words (.noteOff 128) = none ∧ Line.words (.byte 255) = some [0x0FF] := by decide
theorem witness_ResetIsOnlyAFirstLine : Line.reset ∈ [Line.tick, Line.reset] ∧
    List.Forall₂ (fun l w => Line.words l = some w) [.tick, .noteOn 60] [[0x100], [0x090, 0x03C]] :=
  ⟨by decide, .cons (by decide) (.cons (by decide) .nil)⟩

end Sys2Proof.Tests
end

section
/-! Proofs about the scope (00_scope.md): the default mixer shift, the well-formed configurations and what passes
reset, and the event a step runs. -/

namespace Sys2Proof

/-! ### The default mixer shift -/

/-- `ceilLog2` is the lower adjoint of `2 ^ ·`. -/
theorem ceilLog2_le_iff (n k : Nat) : ceilLog2 n ≤ k ↔ n ≤ 2 ^ k := by
  have hpow : 0 < 2 ^ k := Nat.two_pow_pos k
  by_cases h : n ≤ 1
  · simp only [ceilLog2, if_pos h]
    omega
  · have hlog : Nat.log2 (n - 1) < k ↔ n - 1 < 2 ^ k := Nat.log2_lt (by omega)
    simp only [ceilLog2, if_neg h]
    omega

/-- A shift whose power reaches `n` keeps the largest sum of `n` voices in eight bits. -/
theorem largestSum_shiftRight_le {n k : Nat} (h : n ≤ 2 ^ k) : (n * 255) >>> k ≤ 255 := by
  rw [Nat.shiftRight_eq_div_pow]
  exact Nat.div_le_of_le_mul (Nat.mul_le_mul_right 255 h)

/-- Settles O12: both halves on the exponent are the adjunction, and the bound follows from the first. -/
theorem defaultMixShiftFitsEveryPolyphony : Obligations.DefaultMixShiftFitsEveryPolyphony := by
  intro n _
  have reaches : n ≤ 2 ^ ceilLog2 n := (ceilLog2_le_iff n _).mp le_rfl
  exact ⟨reaches, fun k => (ceilLog2_le_iff n k).mpr, largestSum_shiftRight_le reaches⟩

/-! ### Well-formed configurations -/

theorem Config.wf_tickPositive {c : Config} (h : c.wf = true) : 0 < c.fTick := by
  simp only [Config.wf, Bool.and_eq_true] at h
  exact of_decide_eq_true h.2

/-- Settles O13: each condition is one check; the shift of condition 5 is the division by its power of two. -/
theorem wellFormedConfigurationIsRuleSix : Obligations.WellFormedConfigurationIsRuleSix := by
  intro c
  rw [← Nat.shiftRight_eq_div_pow]
  constructor
  · intro h
    exact ⟨c.wf_hasVoice h, c.wf_tableBound h, ⟨c.wf_tableCount h, fun _ => c.wf_tableSize h⟩, c.wf_pitchSize h,
      c.wf_mixFits h, c.wf_tickPositive h⟩
  · rintro ⟨voice, bound, ⟨count, sizes⟩, pitch, mix, tick⟩
    have tables : c.tableSizes = true := List.all_eq_true.mpr fun t ht => decide_eq_true (sizes t ht)
    simp only [Config.wf, Bool.and_eq_true]
    exact ⟨⟨⟨⟨⟨⟨decide_eq_true voice, decide_eq_true bound⟩, decide_eq_true count⟩, tables⟩, decide_eq_true pitch⟩,
      decide_eq_true mix⟩, decide_eq_true tick⟩

/-! ### Decoding an encoded event -/

/-- A well-formed event is decoded from its own word: the operand bits are the free ones, and `ST_OTHER`'s excluded
operands are the two recognised status bytes. -/
theorem decode_encode {i : Instr} (h : i.wf = true) : decode (encode i) = i := by
  cases i with
  | stNoteOn => decide
  | stNoteOff => decide
  | stOther sel => revert sel; decide
  | data b => revert b; decide
  | tick low => revert low; decide

namespace Machine

/-! ### One step, by the next input -/

theorem step_of_reset {s : State} {rest : List Input} (h : s.inputs = .reset :: rest) :
    step s = powerUp (s.withInputs rest) := by
  simp only [step, h]

theorem step_of_event {s : State} {ev : EventWord} {rest : List Input} (h : s.inputs = .event ev :: rest) :
    step s = exec (decode ev) (s.withInputs rest) := by
  simp only [step, h]

theorem step_of_encode {s : State} {i : Instr} {rest : List Input} (hi : i.wf = true)
    (h : s.inputs = .event (encode i) :: rest) : step s = exec i (s.withInputs rest) := by
  rw [step_of_event h, decode_encode hi]

/-- Settles O42: the reset input and boot are both the power-up reset, which tests the configuration. -/
theorem onlyWellFormedConfigurationsPassReset : Obligations.OnlyWellFormedConfigurationsPassReset := by
  refine ⟨?resetInput, ?bootRefuses, ?bootAnswers⟩
  case resetInput =>
    intro s rest illFormed h
    rw [step_of_reset h]
    exact powerUp_illFormed illFormed
  case bootRefuses => exact fun c illFormed => powerUp_illFormed illFormed
  case bootAnswers => exact fun c wellFormed => powerUp_wf wellFormed

/-- Settles O44: a step's event case, then the round trip of a well-formed event through its word. -/
theorem stepRunsTheDecodedEvent : Obligations.StepRunsTheDecodedEvent :=
  ⟨fun _ _ _ h => step_of_event h, fun _ _ _ hi h => step_of_encode hi h⟩

end Machine

end Sys2Proof
end

section
/-! Proofs about the state (10_state.md): the configuration is never written, every step keeps the invariant, and what
a run cannot observe: stale notes, and of the count more than one bit. -/

namespace Sys2Proof.Machine

/-! ### What one step can do -/

/-- The effects of an event on the state: a status byte enters a parser state, a data byte is ignored or runs at most
one verb and is counted, a TICK advances every phase and emits. -/
inductive EventEffect (s : State) : State → Prop where
  | statusByte (st : ParserStatus) : EventEffect s (s.enterParserState st)
  | ignored : EventEffect s s
  | dataByte (verb : Option Verb) (armed : s.parser.status ≠ .idle) : EventEffect s (runVerb verb s).countData
  | tick (b : Byte) : EventEffect s ((s.withVoices (s.voices.map Voice.advance)).emit b)

theorem execData_of_idle {b : Note} {s : State} (h : s.parser.status = .idle) : execData b s = .next s := by
  simp only [execData, h]

theorem execData_of_armed {b : Note} {s : State} (h : s.parser.status ≠ .idle) :
    execData b s = .next (runVerb (dataVerb s.parser b) s).countData :=
  (execData_cases b s).elim (fun idle => absurd idle.1 h) (·.2)

/-- A TICK completes exactly when the mix and the sample exist. -/
theorem execTick_eq_next_iff {low : Byte} {s t : State} : execTick low s = .next t ↔
    ∃ sum b, mixSum s.cfg (s.voices.map Voice.advance) = some sum ∧ sampleOf s.cfg sum = some b ∧
      t = (s.withVoices (s.voices.map Voice.advance)).emit b := by
  constructor
  · intro h
    rcases execTick_cases low s with ⟨sum, b, mix, sample, answer⟩ | ⟨-, fault⟩ | ⟨_, -, -, fault⟩
    · rw [answer] at h
      cases h
      exact ⟨sum, b, mix, sample, rfl⟩
    · rw [fault] at h
      cases h
    · rw [fault] at h
      cases h
  · rintro ⟨sum, b, mix, sample, rfl⟩
    simp only [execTick, mix, sample]

theorem exec_effect {i : Instr} {s t : State} (h : exec i s = .next t) : EventEffect s t := by
  cases i with
  | stNoteOn => cases h; exact .statusByte _
  | stNoteOff => cases h; exact .statusByte _
  | stOther sel => cases h; exact .statusByte _
  | data b =>
    by_cases idle : s.parser.status = .idle
    · cases (execData_of_idle idle).symm.trans h
      exact .ignored
    · cases (execData_of_armed idle).symm.trans h
      exact .dataByte _ idle
  | tick low =>
    obtain ⟨_, b, -, -, rfl⟩ := (execTick_eq_next_iff (low := low)).mp h
    exact .tick b

theorem powerUp_next {s t : State} (h : powerUp s = .next t) :
    s.cfg.wf = true ∧ t = { State.resetWith s.cfg with inputs := s.inputs, emitted := s.emitted } := by
  by_cases wf : s.cfg.wf = true
  · cases (powerUp_wf wf).symm.trans h
    exact ⟨wf, rfl⟩
  · cases (powerUp_illFormed (Bool.eq_false_of_not_eq_true wf)).symm.trans h

/-- A step that answers does nothing, resets, or has the effect of an event. -/
theorem step_next_cases {s t : State} (h : step s = .next t) :
    t = s ∨ (∃ rest, powerUp (s.withInputs rest) = .next t) ∨ ∃ rest, EventEffect (s.withInputs rest) t := by
  rcases step_cases s with ⟨-, hold⟩ | ⟨rest, -, reset⟩ | ⟨ev, rest, -, event⟩
  · cases hold.symm.trans h
    exact .inl rfl
  · exact .inr (.inl ⟨rest, reset.symm.trans h⟩)
  · exact .inr (.inr ⟨rest, exec_effect (event.symm.trans h)⟩)

/-! ### The configuration -/

@[simp] theorem runVerb_cfg (verb : Option Verb) (s : State) : (runVerb verb s).cfg = s.cfg := by
  rw [runVerb_frame, State.withVoices_cfg]

@[simp] theorem runVerb_parser (verb : Option Verb) (s : State) : (runVerb verb s).parser = s.parser := by
  rw [runVerb_frame, State.withVoices_parser]

theorem EventEffect.cfg_eq {s t : State} (h : EventEffect s t) : t.cfg = s.cfg := by
  cases h with
  | statusByte st => rfl
  | ignored => rfl
  | dataByte verb armed => exact runVerb_cfg verb s
  | tick b => rfl

/-- Settles O14: neither the reset input nor an event writes the configuration. -/
theorem noStepWritesTheConfiguration : Obligations.NoStepWritesTheConfiguration := by
  intro s t h
  rcases step_next_cases h with rfl | ⟨rest, reset⟩ | ⟨rest, effect⟩
  · rfl
  · obtain ⟨-, rfl⟩ := powerUp_next reset
    rfl
  · exact effect.cfg_eq

/-! ### The invariant at reset -/

/-- The invariant reads the configuration, the voices and the parser alone. -/
theorem State.Inv.of_same_registers {s t : State} (h : s.Inv) (cfg : t.cfg = s.cfg) (voices : t.voices = s.voices)
    (parser : t.parser = s.parser) : t.Inv := by
  obtain ⟨configured, fileSize, coherent, silent, idleCount, countBound⟩ := h
  constructor <;> simpa only [cfg, voices, parser]

/-- After reset every voice is silent at index 0, which is the selector's answer to step 0. -/
theorem resetWith_inv {c : Config} (h : c.wf = true) : (State.resetWith c).Inv where
  configured := h
  fileSize := List.length_replicate
  coherent := by
    intro v hv
    rw [List.eq_of_mem_replicate hv]
    rfl
  silent := by
    intro v hv _
    rw [List.eq_of_mem_replicate hv]
    rfl
  idleCount := fun _ => rfl
  countBound := fun _ _ positive => positive

theorem testConfig_wf : testConfig.wf = true := by decide +kernel

/-- Settles O46: the reset state of every well-formed configuration, of which TC is one. -/
theorem resetMeetsTheInvariant : Obligations.ResetMeetsTheInvariant :=
  ⟨fun _ => resetWith_inv, resetWith_inv testConfig_wf⟩

/-- Settles O41: the step is the power-up reset, whose answer is the reset state with the host's side kept. -/
theorem resetInputSetsEveryRegister : Obligations.ResetInputSetsEveryRegister :=
  fun s rest wf h => (step_of_reset h).trans (powerUp_wf (s := s.withInputs rest) wf)

/-- Settles O39: the file holds `N` voices in all. -/
theorem atMostNVoicesAreActive : Obligations.AtMostNVoicesAreActive :=
  fun _ h => h.fileSize ▸ List.countP_le_length

/-! ### Every step keeps the invariant -/

theorem forall_mem_modify {α : Type} {P : α → Prop} {f : α → α} (hf : ∀ a, P a → P (f a)) {l : List α}
    (hl : ∀ a ∈ l, P a) (k : Nat) : ∀ a ∈ l.modify k f, P a := by
  intro a ha
  obtain ⟨j, hj⟩ := List.mem_iff_getElem?.mp ha
  rw [List.getElem?_modify] at hj
  obtain ⟨b, hb, rfl⟩ := Option.map_eq_some_iff.mp hj
  have hbP : P b := hl b (List.mem_of_getElem? hb)
  split
  · exact hf b hbP
  · exact hbP

theorem Voice.bound_silent (n : Note) (p : Phase) (v : Voice) : (Voice.bound n p v).SilentWhenInactive := nofun

theorem Voice.released_silent (v : Voice) : v.released.SilentWhenInactive := fun _ => rfl

/-- A new voice file of the same size whose inactive voices are silent meets the invariant after its refresh, since the
refresh makes every pair coherent. -/
theorem State.Inv.refresh_withVoices {s : State} (h : s.Inv) {vs : List Voice} (size : vs.length = s.voices.length)
    (silent : ∀ v ∈ vs, v.SilentWhenInactive) : (refresh (s.withVoices vs)).Inv where
  configured := h.configured
  fileSize := by simp [size, h.fileSize]
  coherent := List.forall_mem_map.mpr fun _ _ => rfl
  silent := List.forall_mem_map.mpr silent
  idleCount := h.idleCount
  countBound := h.countBound

theorem State.Inv.runVerb {s : State} (h : s.Inv) (verb : Option Verb) : (runVerb verb s).Inv := by
  match verb with
  | none => exact h
  | some (.noteOn n) =>
    rcases noteOn_cases n s with ⟨k, -, bind⟩ | ⟨-, drop⟩
    · simp only [Machine.runVerb, bind]
      exact h.refresh_withVoices (List.length_modify ..)
        (forall_mem_modify (fun v _ => v.bound_silent n _) h.silent k)
    · simpa only [Machine.runVerb, drop]
  | some (.noteOff n) =>
    rcases noteOff_cases n s with ⟨k, -, release⟩ | ⟨-, ignore⟩
    · simp only [Machine.runVerb, release]
      exact h.refresh_withVoices (List.length_modify ..)
        (forall_mem_modify (fun v _ => v.released_silent) h.silent k)
    · simpa only [Machine.runVerb, ignore]

theorem State.Inv.enterParserState {s : State} (h : s.Inv) (st : ParserStatus) : (s.enterParserState st).Inv :=
  { h with
    idleCount := fun _ => rfl
    countBound := fun _ _ positive => positive }

theorem incDataCount_lt {m : Nat} (positive : 0 < m) (d : Nat) : incDataCount (some m) d < m := by
  cases m with
  | zero => exact absurd positive (lt_irrefl 0)
  | succ m => exact Nat.mod_lt _ positive

/-- Only an armed parser counts, so the count of `Idle` stays. -/
theorem State.Inv.countData {s : State} (h : s.Inv) (armed : s.parser.status ≠ .idle) : s.countData.Inv :=
  { h with
    idleCount := fun idle => absurd idle armed
    countBound := by
      intro m limit positive
      simp only [State.countData_cfg, State.countData_parser] at limit ⊢
      rw [limit]
      exact incDataCount_lt positive _ }

/-- A TICK writes the accumulators, which the invariant does not read. -/
theorem State.Inv.advance {s : State} (h : s.Inv) : (s.withVoices (s.voices.map Voice.advance)).Inv :=
  { h with
    fileSize := by simp [h.fileSize]
    coherent := List.forall_mem_map.mpr h.coherent
    silent := List.forall_mem_map.mpr h.silent }

theorem EventEffect.keeps_inv {s t : State} (effect : EventEffect s t) (h : s.Inv) : t.Inv := by
  cases effect with
  | statusByte st => exact h.enterParserState st
  | ignored => exact h
  | dataByte verb armed => exact (h.runVerb verb).countData (by simpa using armed)
  | tick b => exact h.advance.of_same_registers rfl rfl rfl

/-- The invariant is kept by every step that answers. -/
theorem step_keeps_inv {s t : State} (h : s.Inv) (answer : step s = .next t) : t.Inv := by
  rcases step_next_cases answer with rfl | ⟨rest, reset⟩ | ⟨rest, effect⟩
  · exact h
  · obtain ⟨wf, rfl⟩ := powerUp_next reset
    exact (resetWith_inv wf).of_same_registers rfl rfl rfl
  · exact effect.keeps_inv (h.of_same_registers rfl rfl rfl)

/-- Settles O47: the reset state meets the invariant anew, and each effect of an event keeps it. -/
theorem everyStepKeepsTheInvariant : Obligations.EveryStepKeepsTheInvariant :=
  fun _ _ => step_keeps_inv

/-! ### Simulation

What a run cannot observe: a relation between two states is carried along a run when every operation that an event uses
respects it. -/

/-- From related states, where the left one answers so does the right one, with a related state. -/
def Simulates (R : State → State → Prop) (f : State → Host.Outcome State Fault Refusal) : Prop :=
  ∀ ⦃s s' t : State⦄, R s s' → f s = .next t → ∃ t', f s' = .next t' ∧ R t t'

/-- Related states agree on all that decides what a step does, and each operation that an event uses keeps the
relation. -/
structure StepCongruence (R : State → State → Prop) : Prop where
  cfg : ∀ {s s'}, R s s' → s.cfg = s'.cfg
  status : ∀ {s s'}, R s s' → s.parser.status = s'.parser.status
  inputs : ∀ {s s'}, R s s' → s.inputs = s'.inputs
  emitted : ∀ {s s'}, R s s' → s.emitted = s'.emitted
  mix : ∀ {s s'}, R s s' →
    mixSum s.cfg (s.voices.map Voice.advance) = mixSum s'.cfg (s'.voices.map Voice.advance)
  /-- the state the power-up reset answers is one state, for both sides -/
  refl : ∀ {s s' u}, R s s' → u.cfg = s.cfg → R u u
  withInputs : ∀ {s s'}, R s s' → ∀ is, R (s.withInputs is) (s'.withInputs is)
  enterParserState : ∀ {s s'}, R s s' → ∀ st, R (s.enterParserState st) (s'.enterParserState st)
  dataByte : ∀ {s s'}, R s s' → ∀ b,
    R (runVerb (dataVerb s.parser b) s).countData (runVerb (dataVerb s'.parser b) s').countData
  tick : ∀ {s s'}, R s s' → ∀ b,
    R ((s.withVoices (s.voices.map Voice.advance)).emit b) ((s'.withVoices (s'.voices.map Voice.advance)).emit b)

namespace StepCongruence

variable {R : State → State → Prop}

theorem simulates_powerUp (h : StepCongruence R) : Simulates R powerUp := by
  intro s s' t related answer
  obtain ⟨wf, rfl⟩ := powerUp_next answer
  rw [h.cfg related] at wf
  refine ⟨_, powerUp_wf wf, ?_⟩
  rw [h.cfg related, h.inputs related, h.emitted related]
  exact h.refl related (h.cfg related).symm

theorem simulates_enterParserState (h : StepCongruence R) (st : ParserStatus) :
    Simulates R fun s => .next (s.enterParserState st) := by
  intro s s' t related answer
  cases answer
  exact ⟨_, rfl, h.enterParserState related st⟩

theorem simulates_execData (h : StepCongruence R) (b : Note) : Simulates R (execData b) := by
  intro s s' t related answer
  have status := h.status related
  by_cases idle : s.parser.status = .idle
  · cases (execData_of_idle idle).symm.trans answer
    exact ⟨s', execData_of_idle (status ▸ idle), related⟩
  · cases (execData_of_armed idle).symm.trans answer
    exact ⟨_, execData_of_armed (status ▸ idle), h.dataByte related b⟩

theorem simulates_execTick (h : StepCongruence R) (low : Byte) : Simulates R (execTick low) := by
  intro s s' t related answer
  obtain ⟨sum, b, mix, sample, rfl⟩ := execTick_eq_next_iff.mp answer
  rw [h.mix related] at mix
  rw [h.cfg related] at sample
  exact ⟨_, execTick_eq_next_iff.mpr ⟨sum, b, mix, sample, rfl⟩, h.tick related b⟩

theorem simulates_exec (h : StepCongruence R) (i : Instr) : Simulates R (exec i) := by
  cases i with
  | stNoteOn => exact h.simulates_enterParserState .expectingNoteOnData
  | stNoteOff => exact h.simulates_enterParserState .expectingNoteOffData
  | stOther sel => exact h.simulates_enterParserState .idle
  | data b => exact h.simulates_execData b
  | tick low => exact h.simulates_execTick low

theorem simulates_step (h : StepCongruence R) : Simulates R step := by
  intro s s' t related answer
  have inputs := h.inputs related
  rcases step_cases s with ⟨none, hold⟩ | ⟨rest, next, reset⟩ | ⟨ev, rest, next, event⟩
  · cases hold.symm.trans answer
    exact ⟨s', by simp only [step, inputs ▸ none], related⟩
  · rw [step_of_reset (inputs ▸ next)]
    exact h.simulates_powerUp (h.withInputs related rest) (reset.symm.trans answer)
  · rw [step_of_event (inputs ▸ next)]
    exact h.simulates_exec (decode ev) (h.withInputs related rest) (event.symm.trans answer)

end StepCongruence

theorem runs_zero_iff {s t : State} : Runs 0 s t ↔ s = t :=
  ⟨Host.Outcome.next.inj, congrArg _⟩

theorem run_succ_eq_next_iff (M : Host.Core) {k : Nat} {s t : M.State} :
    M.run (k + 1) s = .next t ↔ ∃ u, M.step s = .next u ∧ M.run k u = .next t := by
  rw [Host.Core.run]
  cases M.step s with
  | next u => simp
  | fault r => simp
  | refused r => simp

/-- A run of `k + 1` steps is one step and a run of `k`. -/
theorem runs_succ_iff {k : Nat} {s t : State} : Runs (k + 1) s t ↔ ∃ u, step s = .next u ∧ Runs k u t :=
  run_succ_eq_next_iff core

/-- A relation that one step respects is respected by every run, by induction on its length. -/
theorem Simulates.runs {R : State → State → Prop} (h : Simulates R step) {k : Nat} {s s' t : State}
    (related : R s s') (run : Runs k s t) : ∃ t', Runs k s' t' ∧ R t t' := by
  induction k generalizing s s' with
  | zero =>
    obtain rfl := runs_zero_iff.mp run
    exact ⟨s', runs_zero_iff.mpr rfl, related⟩
  | succ k ih =>
    obtain ⟨u, first, rest⟩ := runs_succ_iff.mp run
    obtain ⟨u', first', related'⟩ := h related first
    obtain ⟨t', rest', final⟩ := ih related' rest
    exact ⟨t', runs_succ_iff.mpr ⟨u', first', rest'⟩, final⟩

/-! ### Stale notes -/

namespace Voice.SameButStaleNote

theorem refl (v : Voice) : v.SameButStaleNote v := ⟨rfl, rfl, rfl, rfl, fun _ => rfl⟩

variable {v w : Voice} (h : v.SameButStaleNote w)
include h

theorem advance : v.advance.SameButStaleNote w.advance :=
  { h with acc := by simp only [Voice.advance_acc, h.acc, h.step] }

theorem refreshed (m : Nat) : (v.refreshed m).SameButStaleNote (w.refreshed m) :=
  { h with tidx := congrArg (selectTable m) h.step }

theorem bound (n : Note) (p : Phase) : (v.bound n p).SameButStaleNote (w.bound n p) :=
  ⟨rfl, rfl, h.acc, h.tidx, fun _ => rfl⟩

theorem released : v.released.SameButStaleNote w.released := ⟨rfl, rfl, h.acc, h.tidx, nofun⟩

theorem isFree_eq : v.isFree = w.isFree := congrArg (!·) h.active

/-- The note is compared for an active voice only. -/
theorem sounds_eq (n : Note) : v.sounds n = w.sounds n := by
  simp only [Voice.sounds, ← h.active]
  cases active : v.active with
  | false => rfl
  | true => rw [h.note active]

theorem sampleAddress_eq : v.sampleAddress = w.sampleAddress := by
  simp only [Voice.sampleAddress, Voice.sampleIndex, h.acc, h.tidx]

end Voice.SameButStaleNote

theorem forall₂_map_map {α : Type} {R : α → α → Prop} {f : α → α} (hf : ∀ {a b}, R a b → R (f a) (f b))
    {l l' : List α} (h : List.Forall₂ R l l') : List.Forall₂ R (l.map f) (l'.map f) :=
  List.rel_map (fun _ _ hab => hf hab) h

theorem forall₂_modify {α : Type} {R : α → α → Prop} {f : α → α} (hf : ∀ {a b}, R a b → R (f a) (f b))
    {l l' : List α} (h : List.Forall₂ R l l') (k : Nat) : List.Forall₂ R (l.modify k f) (l'.modify k f) := by
  induction h generalizing k with
  | nil => simp
  | cons head tail ih =>
    cases k with
    | zero => exact .cons (hf head) tail
    | succ k => exact .cons head (ih k)

theorem findIdx?_eq_of_forall₂ {α : Type} {R : α → α → Prop} {p : α → Bool} (hp : ∀ {a b}, R a b → p a = p b)
    {l l' : List α} (h : List.Forall₂ R l l') : l.findIdx? p = l'.findIdx? p := by
  induction h with
  | nil => rfl
  | cons head _ ih => simp only [List.findIdx?_cons, hp head, ih]

theorem mixSum_eq_of_sameButStaleNote (c : Config) {vs ws : List Voice}
    (h : List.Forall₂ Voice.SameButStaleNote vs ws) : mixSum c vs = mixSum c ws := by
  induction h with
  | nil => rfl
  | cons head _ ih => simp only [mixSum, head.sampleAddress_eq, ih]

namespace State.SameButStaleNotes

theorem refl (s : State) : s.SameButStaleNotes s :=
  ⟨rfl, List.forall₂_same.mpr fun v _ => .refl v, rfl, rfl, rfl⟩

variable {s s' : State} (h : s.SameButStaleNotes s')
include h

theorem withVoices {vs vs' : List Voice} (related : List.Forall₂ Voice.SameButStaleNote vs vs') :
    (s.withVoices vs).SameButStaleNotes (s'.withVoices vs') :=
  { h with voices := related }

theorem refresh : (refresh s).SameButStaleNotes (Machine.refresh s') := by
  unfold Machine.refresh
  rw [← h.cfg]
  exact h.withVoices (forall₂_map_map (fun voice => voice.refreshed _) h.voices)

theorem advance : List.Forall₂ Voice.SameButStaleNote (s.voices.map Voice.advance) (s'.voices.map Voice.advance) :=
  forall₂_map_map (fun voice => voice.advance) h.voices

/-- Both sides find the same free slot. -/
theorem noteOn (n : Note) : (noteOn n s).SameButStaleNotes (Machine.noteOn n s') := by
  unfold Machine.noteOn
  rw [← findIdx?_eq_of_forall₂ (fun voice => voice.isFree_eq) h.voices, ← h.cfg]
  split
  · exact (h.withVoices (forall₂_modify (fun voice => voice.bound n _) h.voices _)).refresh
  · exact h

/-- Both sides find the same sounding slot: a stale note matches nothing. -/
theorem noteOff (n : Note) : (noteOff n s).SameButStaleNotes (Machine.noteOff n s') := by
  unfold Machine.noteOff
  rw [← findIdx?_eq_of_forall₂ (fun voice => voice.sounds_eq n) h.voices]
  split
  · exact (h.withVoices (forall₂_modify (fun voice => voice.released) h.voices _)).refresh
  · exact h

theorem runVerb (verb : Option Verb) : (runVerb verb s).SameButStaleNotes (Machine.runVerb verb s') := by
  match verb with
  | none => exact h
  | some (.noteOn n) => exact h.noteOn n
  | some (.noteOff n) => exact h.noteOff n

theorem countData : s.countData.SameButStaleNotes s'.countData :=
  { h with parser := by simp only [State.countData_parser, h.cfg, h.parser] }

end State.SameButStaleNotes

theorem sameButStaleNotes_stepCongruence : StepCongruence State.SameButStaleNotes where
  cfg h := h.cfg
  status h := congrArg Parser.status h.parser
  inputs h := h.inputs
  emitted h := h.emitted
  mix h := by rw [← h.cfg, mixSum_eq_of_sameButStaleNote _ h.advance]
  refl _ _ := .refl _
  withInputs h _ := { h with inputs := rfl }
  enterParserState h _ := { h with parser := rfl }
  dataByte h b := by
    rw [← h.parser]
    exact (h.runVerb (dataVerb _ b)).countData
  tick h b := { h.withVoices h.advance with emitted := congrArg (· ++ [b]) h.emitted }

/-- Settles O50: no operation reads the note of an inactive voice, so the relation is carried along the run. -/
theorem staleNotesAreNeverObserved : Obligations.StaleNotesAreNeverObserved :=
  fun _ _ _ _ related => sameButStaleNotes_stepCongruence.simulates_step.runs related

/-! ### One bit of the count -/

/-- The relation that a run carries: the counts never wrap, so neither returns to 0 by counting. -/
def SameButUnlimitedCount (s s' : State) : Prop := s.cfg.dcLimit = none ∧ s.SameButCount s'

theorem dataVerb_eq_of_zero_iff {p q : Parser} (status : p.status = q.status) (count : p.dc = 0 ↔ q.dc = 0)
    (b : Note) : dataVerb p b = dataVerb q b := by
  simp only [dataVerb, status, count]

/-- The allocator does not read the parser. -/
theorem runVerb_withParser (verb : Option Verb) (s : State) (p : Parser) :
    runVerb verb (s.withParser p) = (runVerb verb s).withParser p := by
  match verb with
  | none => rfl
  | some (.noteOn n) =>
    simp only [runVerb, noteOn, State.withParser_voices]
    split <;> rfl
  | some (.noteOff n) =>
    simp only [runVerb, noteOff, State.withParser_voices]
    split <;> rfl

namespace State.SameButCount

variable {s s' : State} (h : s.SameButCount s')
include h

theorem eq_withParser : s' = s.withParser s'.parser :=
  State.ext h.cfg.symm h.voices.symm rfl h.inputs.symm h.emitted.symm

theorem runVerb (verb : Option Verb) : (runVerb verb s).SameButCount (Machine.runVerb verb s') := by
  rw [h.eq_withParser, runVerb_withParser]
  exact ⟨rfl, rfl, by simpa using h.status, by simpa using h.count, rfl, rfl⟩

/-- Without a limit a counted byte leaves neither count at 0. -/
theorem countData (unlimited : s.cfg.dcLimit = none) : s.countData.SameButCount s'.countData :=
  { h with count := by simp [← h.cfg, unlimited, incDataCount] }

end State.SameButCount

theorem sameButUnlimitedCount_stepCongruence : StepCongruence SameButUnlimitedCount where
  cfg h := h.2.cfg
  status h := h.2.status
  inputs h := h.2.inputs
  emitted h := h.2.emitted
  mix h := by rw [h.2.cfg, h.2.voices]
  refl h cfg := ⟨cfg ▸ h.1, rfl, rfl, rfl, .rfl, rfl, rfl⟩
  withInputs h _ := ⟨h.1, { h.2 with inputs := rfl }⟩
  enterParserState h _ := ⟨h.1, { h.2 with status := rfl, count := .rfl }⟩
  dataByte := by
    rintro s s' ⟨unlimited, same⟩ b
    rw [← dataVerb_eq_of_zero_iff same.status same.count b]
    exact ⟨by simpa using unlimited, (same.runVerb _).countData (by simpa using unlimited)⟩
  tick h b := ⟨h.1, { h.2 with
    voices := congrArg (List.map Voice.advance) h.2.voices
    emitted := congrArg (· ++ [b]) h.2.emitted }⟩

/-- Settles O51: a data byte reads of the count only whether it is 0, and counting agrees on that bit. -/
theorem oneBitOfTheCountSuffices : Obligations.OneBitOfTheCountSuffices := by
  intro k s s' t unlimited same run
  obtain ⟨t', run', -, same'⟩ :=
    sameButUnlimitedCount_stepCongruence.simulates_step.runs ⟨unlimited, same⟩ run
  exact ⟨t', run', same'⟩

end Sys2Proof.Machine
end

section
/-! Proofs about memory and the ports (20_memory.md): the flat address of a table entry, the sample port that is only
appended to, and a run over a sequence of events. -/

namespace Sys2Proof.Machine

/-! ### The flat address -/

/-- A read at the flat address of an entry that exists answers that entry. -/
theorem memReadWT_of_entry {c : Config} {t i : Nat} {table : List Byte} {x : Byte} (hi : i < 256)
    (ht : c.wt[t]? = some table) (hx : table[i]? = some x) : memReadWT c (t * 256 + i) = some x := by
  obtain ⟨quotient, remainder⟩ := flatAddress_split t i hi
  simp only [memReadWT, quotient, remainder, ht, Option.bind_some, hx]

/-- Settles O11: a well-formed set has table `t` and its entry `i`, and the flat address splits into the two. -/
theorem flatAddressReadsItsTableEntry : Obligations.FlatAddressReadsItsTableEntry := by
  intro c t i wf ht hi
  have inSet : t < c.wt.length := by
    rw [c.wf_tableCount wf]
    exact Nat.lt_succ_of_le ht
  have inTable : i < c.wt[t].length := by rwa [c.wf_tableSize wf (List.getElem_mem inSet)]
  have table := List.getElem?_eq_getElem inSet
  have entry := List.getElem?_eq_getElem inTable
  exact ⟨_, _, table, entry, memReadWT_of_entry hi table entry⟩

/-! ### The samples emitted before -/

/-- The state with another history of emitted samples. -/
def State.withEmitted (s : State) (history : List Byte) : State := { s with emitted := history }

@[simp] theorem State.withEmitted_cfg (s : State) (history : List Byte) : (s.withEmitted history).cfg = s.cfg := rfl
@[simp] theorem State.withEmitted_voices (s : State) (history : List Byte) :
    (s.withEmitted history).voices = s.voices := rfl
@[simp] theorem State.withEmitted_parser (s : State) (history : List Byte) :
    (s.withEmitted history).parser = s.parser := rfl
@[simp] theorem State.withEmitted_inputs (s : State) (history : List Byte) :
    (s.withEmitted history).inputs = s.inputs := rfl

/-- The transition from `s` to `t` under `f` appends `suffix` to the samples, and does so from every history. -/
def AppendsBlindly (f : State → Host.Outcome State Fault Refusal) (s t : State) (suffix : List Byte) : Prop :=
  t.emitted = s.emitted ++ suffix ∧
    ∀ history, f (s.withEmitted history) = .next (t.withEmitted (history ++ suffix))

/-- A transition that leaves the samples alone, from every history, appends nothing. -/
theorem AppendsBlindly.nothing {f : State → Host.Outcome State Fault Refusal} {s t : State}
    (emitted : t.emitted = s.emitted) (blind : ∀ history, f (s.withEmitted history) = .next (t.withEmitted history)) :
    AppendsBlindly f s t [] := by
  simpa only [AppendsBlindly, List.append_nil] using And.intro emitted blind

/-- A verb reads the configuration and the voices alone. -/
theorem runVerb_voices_congr (verb : Option Verb) {s s' : State} (cfg : s.cfg = s'.cfg)
    (voices : s.voices = s'.voices) : (runVerb verb s).voices = (runVerb verb s').voices := by
  match verb with
  | none => exact voices
  | some (.noteOn n) =>
    simp only [runVerb, noteOn, cfg, voices]
    split
    · simp [cfg]
    · exact voices
  | some (.noteOff n) =>
    simp only [runVerb, noteOff, voices]
    split
    · simp [cfg]
    · exact voices

@[simp] theorem runVerb_emitted (verb : Option Verb) (s : State) : (runVerb verb s).emitted = s.emitted := by
  rw [runVerb_frame, State.withVoices_emitted]

@[simp] theorem runVerb_inputs (verb : Option Verb) (s : State) : (runVerb verb s).inputs = s.inputs := by
  rw [runVerb_frame, State.withVoices_inputs]

theorem runVerb_withEmitted (verb : Option Verb) (s : State) (history : List Byte) :
    runVerb verb (s.withEmitted history) = (runVerb verb s).withEmitted history := by
  rw [runVerb_frame, runVerb_frame verb s, runVerb_voices_congr verb (s.withEmitted_cfg history) rfl]
  rfl

theorem execData_appendsBlindly {b : Note} {s t : State} (h : execData b s = .next t) :
    AppendsBlindly (execData b) s t [] := by
  by_cases idle : s.parser.status = .idle
  · cases (execData_of_idle idle).symm.trans h
    exact .nothing rfl fun _ => execData_of_idle idle
  · cases (execData_of_armed idle).symm.trans h
    refine .nothing (runVerb_emitted _ s) fun history => ?_
    rw [execData_of_armed (s := s.withEmitted history) idle, runVerb_withEmitted]
    rfl

/-- The mix and the shift read the configuration and the voices, so from every history the same sample is appended. -/
theorem execTick_appendsBlindly {low : Byte} {s t : State} (h : execTick low s = .next t) :
    ∃ b, AppendsBlindly (execTick low) s t [b] := by
  obtain ⟨sum, b, mix, sample, rfl⟩ := execTick_eq_next_iff.mp h
  exact ⟨b, rfl, fun history => execTick_eq_next_iff.mpr ⟨sum, b, mix, sample, rfl⟩⟩

theorem exec_appendsBlindly {i : Instr} {s t : State} (h : exec i s = .next t) :
    ∃ suffix, AppendsBlindly (exec i) s t suffix := by
  cases i with
  | stNoteOn => cases h; exact ⟨[], .nothing rfl fun _ => rfl⟩
  | stNoteOff => cases h; exact ⟨[], .nothing rfl fun _ => rfl⟩
  | stOther sel => cases h; exact ⟨[], .nothing rfl fun _ => rfl⟩
  | data b => exact ⟨[], execData_appendsBlindly h⟩
  | tick low =>
    obtain ⟨b, appends⟩ := execTick_appendsBlindly (low := low) h
    exact ⟨[b], appends⟩

theorem powerUp_appendsBlindly {s t : State} (h : powerUp s = .next t) : AppendsBlindly powerUp s t [] := by
  obtain ⟨wf, rfl⟩ := powerUp_next h
  exact .nothing rfl fun _ => powerUp_wf wf

/-- A step takes the same input whatever the history. -/
theorem step_appendsBlindly {s t : State} (h : step s = .next t) : ∃ suffix, AppendsBlindly step s t suffix := by
  rcases step_cases s with ⟨none, hold⟩ | ⟨rest, next, reset⟩ | ⟨ev, rest, next, event⟩
  · cases hold.symm.trans h
    exact ⟨[], .nothing rfl fun _ => by simp only [step, State.withEmitted_inputs, none]⟩
  · obtain ⟨emitted, blind⟩ := powerUp_appendsBlindly (reset.symm.trans h)
    exact ⟨[], emitted, fun history => (step_of_reset (s := s.withEmitted history) next).trans (blind history)⟩
  · obtain ⟨suffix, emitted, blind⟩ := exec_appendsBlindly (event.symm.trans h)
    exact ⟨suffix, emitted, fun history => (step_of_event (s := s.withEmitted history) next).trans (blind history)⟩

/-- Settles O52, by induction on the length of the run: its suffix is the first step's, then the rest's. -/
theorem emittedHistoryIsNeverRead : Obligations.EmittedHistoryIsNeverRead := by
  intro k
  induction k with
  | zero =>
    intro s t run
    obtain rfl := runs_zero_iff.mp run
    exact ⟨[], (List.append_nil _).symm, fun history => runs_zero_iff.mpr (by rw [List.append_nil])⟩
  | succ k ih =>
    intro s t run
    obtain ⟨u, first, rest⟩ := runs_succ_iff.mp run
    obtain ⟨now, emittedNow, blindNow⟩ := step_appendsBlindly first
    obtain ⟨later, emittedLater, blindLater⟩ := ih u t rest
    refine ⟨now ++ later, by rw [emittedLater, emittedNow, List.append_assoc], fun history => ?_⟩
    rw [← List.append_assoc]
    exact runs_succ_iff.mpr ⟨_, blindNow history, blindLater (history ++ now)⟩

/-! ### Every sequence of events runs to its end -/

/-- A coherent index is an answer of the Table Selector, which is at most `MAX_TABLE`. -/
theorem State.Inv.tidxInRange {s : State} (h : s.Inv) : s.TidxInRange := by
  intro v hv
  rw [h.coherent v hv]
  exact selectTable_le_max ..

/-- TICK completes where every index addresses a table, and emits one sample. -/
theorem execTick_completes {s : State} (low : Byte) (wf : s.cfg.wf = true) (size : s.voices.length = s.cfg.n)
    (inRange : s.TidxInRange) :
    ∃ b, execTick low s = .next ((s.withVoices (s.voices.map Voice.advance)).emit b) := by
  obtain ⟨sum, mix, bound⟩ := mixSum_isSome wf (s.voices.map Voice.advance) (List.forall_mem_map.mpr inRange)
  rw [List.length_map, size] at bound
  exact ⟨_, execTick_eq_next_iff.mpr ⟨sum, _, mix, (sampleOf_isSome wf bound).1, rfl⟩⟩

/-- Every BYTE completes in every state and emits nothing. -/
theorem exec_byte_completes {i : Instr} (byte : ∀ low, i ≠ .tick low) (s : State) :
    ∃ t, exec i s = .next t ∧ t.emitted = s.emitted := by
  cases i with
  | stNoteOn => exact ⟨_, rfl, rfl⟩
  | stNoteOff => exact ⟨_, rfl, rfl⟩
  | stOther sel => exact ⟨_, rfl, rfl⟩
  | data b =>
    by_cases idle : s.parser.status = .idle
    · exact ⟨s, execData_of_idle idle, rfl⟩
    · exact ⟨_, execData_of_armed idle, runVerb_emitted _ s⟩
  | tick low => exact absurd rfl (byte low)

theorem decodeByte_ne_tick (b low : Byte) : decodeByte b ≠ .tick low := by
  unfold decodeByte
  split_ifs <;> nofun

theorem decode_of_isTick {ev : EventWord} (h : isTick ev = true) : decode ev = .tick (byteOf ev) :=
  if_pos h

theorem decode_ne_tick {ev : EventWord} (h : isTick ev = false) (low : Byte) : decode ev ≠ .tick low := by
  have byte : decode ev = decodeByte (byteOf ev) := if_neg (Bool.eq_false_iff.mp h)
  exact byte ▸ decodeByte_ne_tick _ low

/-- From a state that meets the invariant every event word completes, with one sample if it is a TICK and none
otherwise. -/
theorem exec_decode_completes {s : State} (h : s.Inv) (ev : EventWord) :
    ∃ t, exec (decode ev) s = .next t ∧ t.emitted.length = s.emitted.length + if isTick ev then 1 else 0 := by
  cases tick : isTick ev with
  | true =>
    rw [decode_of_isTick tick]
    obtain ⟨b, answer⟩ := execTick_completes (byteOf ev) h.configured h.fileSize h.tidxInRange
    exact ⟨_, answer, by simp⟩
  | false =>
    obtain ⟨t, answer, emitted⟩ := exec_byte_completes (decode_ne_tick tick) s
    exact ⟨t, answer, by simp [emitted]⟩

/-- No event touches the inputs still to come. -/
theorem EventEffect.inputs_eq {s t : State} (h : EventEffect s t) : t.inputs = s.inputs := by
  cases h with
  | statusByte st => rfl
  | ignored => rfl
  | dataByte verb armed => exact runVerb_inputs verb s
  | tick b => rfl

/-- One event of a sequence: the step completes, keeps the invariant, leaves the rest, and emits a TICK's sample. -/
theorem step_event_completes {s : State} {ev : EventWord} {rest : List Input} (h : s.Inv)
    (next : s.inputs = .event ev :: rest) :
    ∃ t, step s = .next t ∧ t.Inv ∧ t.inputs = rest ∧
      t.emitted.length = s.emitted.length + if isTick ev then 1 else 0 := by
  have taken : (s.withInputs rest).Inv := h.of_same_registers rfl rfl rfl
  obtain ⟨t, answer, samples⟩ := exec_decode_completes taken ev
  have effect : EventEffect (s.withInputs rest) t := exec_effect answer
  exact ⟨t, (step_of_event next).trans answer, effect.keeps_inv taken, effect.inputs_eq, samples⟩

/-- Settles O49, by induction on the sequence: the invariant carries completion from each event to the next. -/
theorem everySequenceRunsWithOneSamplePerTick : Obligations.EverySequenceRunsWithOneSamplePerTick := by
  intro s evs rest
  induction evs generalizing s with
  | nil => exact fun h inputs => ⟨s, runs_zero_iff.mpr rfl, h, inputs, rfl⟩
  | cons ev evs ih =>
    intro h inputs
    obtain ⟨u, first, hu, left, sample⟩ := step_event_completes h inputs
    obtain ⟨t, run, ht, done, samples⟩ := ih u hu left
    refine ⟨t, runs_succ_iff.mpr ⟨u, first, run⟩, ht, done, ?_⟩
    rw [samples, sample, List.countP_cons]
    omega

end Sys2Proof.Machine
end

section
/-! Proofs about the encoding (30_encoding.md): the fields of a byte and of a word, the decoder and the encoder as
inverses, the byte map and the opcode table, and the program text. -/

namespace Sys2Proof

/-! ### The fields of a byte and of a word, as numbers -/

theorem isStatusByte_iff {b : Byte} : isStatusByte b = true ↔ 128 ≤ b.toNat := by
  rw [isStatusByte, ← BitVec.msb_eq_getLsbD_last, BitVec.msb_eq_decide, decide_eq_true_iff]

theorem portBit_iff {ev : EventWord} : portBit ev = true ↔ 256 ≤ ev.toNat := by
  rw [portBit, ← BitVec.msb_eq_getLsbD_last, BitVec.msb_eq_decide, decide_eq_true_iff]

theorem lowSeven_eq_ofNat (b : Byte) : lowSeven b = BitVec.ofNat 7 b.toNat :=
  BitVec.eq_of_toNat_eq (by simp [lowSeven])

theorem byteOf_eq_ofNat (ev : EventWord) : byteOf ev = BitVec.ofNat 8 ev.toNat :=
  BitVec.eq_of_toNat_eq (by simp [byteOf])

@[simp] theorem lowSeven_toNat (b : Byte) : (lowSeven b).toNat = b.toNat % 128 := by
  rw [lowSeven_eq_ofNat, BitVec.toNat_ofNat]

@[simp] theorem byteOf_toNat (ev : EventWord) : (byteOf ev).toNat = ev.toNat % 256 := by
  rw [byteOf_eq_ofNat, BitVec.toNat_ofNat]

/-- Appending bits below a value adds them to its multiple. -/
theorem toNat_append_eq_add {m n : Nat} (x : BitVec m) (y : BitVec n) :
    (x ++ y).toNat = x.toNat * 2 ^ n + y.toNat := by
  rw [BitVec.toNat_append, ← Nat.shiftLeft_add_eq_or_of_lt y.isLt, Nat.shiftLeft_eq]

@[simp] theorem encode_data_toNat (b : Note) : (encode (.data b)).toNat = b.toNat :=
  (toNat_append_eq_add 0b00#2 b).trans (by simp)

@[simp] theorem encode_stOther_toNat (sel : BitVec 7) : (encode (.stOther sel)).toNat = 128 + sel.toNat :=
  toNat_append_eq_add _ sel

@[simp] theorem encode_tick_toNat (low : Byte) : (encode (.tick low)).toNat = 256 + low.toNat :=
  toNat_append_eq_add _ low

@[simp] theorem byteEvent_toNat (b : Byte) : (Machine.byteEvent b).toNat = b.toNat :=
  (toNat_append_eq_add 0b0#1 b).trans (by simp)

/-! ### The decoder, by class -/

theorem decodeByte_of_dataByte {b : Byte} (h : ¬ isStatusByte b = true) : decodeByte b = .data (lowSeven b) :=
  if_neg h

theorem decodeByte_of_otherStatus {b : Byte} (status : isStatusByte b = true) (notOn : b ≠ noteOnStatus)
    (notOff : b ≠ noteOffStatus) : decodeByte b = .stOther (lowSeven b) := by
  simp only [decodeByte, status, notOn, notOff, if_true, if_false]

theorem decode_of_byte {ev : EventWord} (h : ¬ portBit ev = true) : decode ev = decodeByte (byteOf ev) :=
  if_neg h

/-- Settles O1: the four classes of a byte, with its high bit and its low bits as numbers. -/
theorem bytesDecodeByExactEquality : Obligations.BytesDecodeByExactEquality := by
  intro b
  rw [← lowSeven_eq_ofNat, ← isStatusByte_iff, ← not_le, ← isStatusByte_iff]
  refine ⟨decodeByte_of_dataByte, ?on, ?off, decodeByte_of_otherStatus⟩
  case on => rintro rfl; decide
  case off => rintro rfl; decide

/-- Settles O2: bit 8 is the bound 256, and no meaning of TICK names the low byte. -/
theorem eventWordSelectsByteOrTick : Obligations.EventWordSelectsByteOrTick := by
  intro ev
  rw [← byteOf_eq_ofNat, ← portBit_iff, ← not_le, ← portBit_iff]
  exact ⟨decode_of_byte, Machine.decode_of_isTick, fun _ _ => rfl⟩

/-! ### Decoder and encoder are inverses -/

/-- Settles O5: the round trip of a well-formed event, class by class. -/
theorem encodeThenDecodeReturnsTheEvent : Obligations.EncodeThenDecodeReturnsTheEvent :=
  fun _ => decode_encode

theorem decode_of_encode_eq {i : Instr} {ev : EventWord} (wf : i.wf = true) (word : encode i = ev) :
    decode ev = i :=
  word ▸ decode_encode wf

/-- Settles O4: each word is the encoding of the event beside it. -/
theorem writtenWordsDecode : Obligations.WrittenWordsDecode :=
  ⟨decode_of_encode_eq rfl rfl, decode_of_encode_eq rfl rfl, decode_of_encode_eq rfl rfl,
    decode_of_encode_eq rfl rfl, decode_of_encode_eq rfl rfl, decode_of_encode_eq rfl rfl,
    decode_of_encode_eq rfl rfl⟩

/-- The low seven bits tell two status bytes apart. -/
theorem statusByte_eq_of_lowSeven_eq {a b : Byte} (ha : isStatusByte a = true) (hb : isStatusByte b = true)
    (h : lowSeven a = lowSeven b) : a = b := by
  have highA := isStatusByte_iff.mp ha
  have highB := isStatusByte_iff.mp hb
  have low := congrArg BitVec.toNat h
  rw [lowSeven_toNat, lowSeven_toNat] at low
  exact BitVec.eq_of_toNat_eq (by omega)

/-- The two operands an `ST_OTHER` must not have are the low bits of the two recognised status bytes. -/
theorem wf_stOther_lowSeven {b : Byte} (status : isStatusByte b = true) (notOn : b ≠ noteOnStatus)
    (notOff : b ≠ noteOffStatus) : (Instr.stOther (lowSeven b)).wf = true := by
  have offOperand : lowSeven b ≠ 0x00#7 := fun h => notOff (statusByte_eq_of_lowSeven_eq status rfl h)
  have onOperand : lowSeven b ≠ 0x10#7 := fun h => notOn (statusByte_eq_of_lowSeven_eq status rfl h)
  exact Bool.and_eq_true_iff.mpr ⟨bne_iff_ne.mpr offOperand, bne_iff_ne.mpr onOperand⟩

/-- The word of a byte's event is the BYTE word of that byte, and the event is well formed (R65). -/
theorem decodeByte_wf_and_encode (b : Byte) :
    (decodeByte b).wf = true ∧ encode (decodeByte b) = Machine.byteEvent b := by
  by_cases status : isStatusByte b = true
  case neg =>
    have low := mt isStatusByte_iff.mpr status
    rw [decodeByte_of_dataByte status]
    refine ⟨rfl, BitVec.eq_of_toNat_eq ?_⟩
    rw [encode_data_toNat, lowSeven_toNat, byteEvent_toNat]
    omega
  by_cases on : b = noteOnStatus
  case pos => subst on; decide
  by_cases off : b = noteOffStatus
  case pos => subst off; decide
  have high := isStatusByte_iff.mp status
  rw [decodeByte_of_otherStatus status on off]
  refine ⟨wf_stOther_lowSeven status on off, BitVec.eq_of_toNat_eq ?_⟩
  rw [encode_stOther_toNat, lowSeven_toNat, byteEvent_toNat]
  omega

/-- Settles O6: TICK's word is 256 and its low byte, and a BYTE's word is its byte. -/
theorem decodeThenEncodeReturnsTheWord : Obligations.DecodeThenEncodeReturnsTheWord := by
  intro ev
  have := ev.isLt
  by_cases tick : portBit ev = true
  · have high := portBit_iff.mp tick
    rw [Machine.decode_of_isTick tick]
    refine ⟨rfl, BitVec.eq_of_toNat_eq ?_⟩
    rw [encode_tick_toNat, byteOf_toNat]
    omega
  · have low := mt portBit_iff.mpr tick
    obtain ⟨wf, word⟩ := decodeByte_wf_and_encode (byteOf ev)
    rw [decode_of_byte tick, word]
    refine ⟨wf, BitVec.eq_of_toNat_eq ?_⟩
    rw [byteEvent_toNat, byteOf_toNat]
    omega

/-! ### The byte map and the opcode table -/

/-- The family `RowOf` over every class of event. -/
theorem rowOf_every_class (i : Instr) : Laws.RowOf.Statement i :=
  match i with
  | .stNoteOn => Laws.RowOf.stNoteOn
  | .stNoteOff => Laws.RowOf.stNoteOff
  | .stOther sel => Laws.RowOf.stOther sel
  | .data b => Laws.RowOf.data b
  | .tick low => Laws.RowOf.tick low

/-- In the order of the opcode table the first row that covers an event's word is the event's own. -/
theorem firstRow_encode {i : Instr} (wf : i.wf = true) :
    (opcodeTable.find? (·.covers (encode i))).map (·.mnemonic) = some i.mnemonic := by
  cases i with
  | stNoteOn => decide
  | stNoteOff => decide
  | stOther sel => revert sel; decide
  | data b => revert b; decide
  | tick low => revert low; decide

/-- Settles O3: every word is the word of the well-formed event it decodes to, and the rows are known of those. -/
theorem byteMapGivesEachWordOneClass : Obligations.ByteMapGivesEachWordOneClass := by
  intro ev
  obtain ⟨wf, word⟩ := decodeThenEncodeReturnsTheWord ev
  have rows := rowOf_every_class (decode ev) wf
  have first := firstRow_encode wf
  rw [word] at rows first
  exact ⟨rows, first⟩

namespace Machine

/-! ### Program text -/

theorem byteWord_eq_ofNat {x : Nat} (h : x ≤ 255) : byteWord x = BitVec.ofNat 9 x :=
  BitVec.eq_of_toNat_eq (by simp only [byteWord, byteEvent_toNat, BitVec.toNat_ofNat]; omega)

/-- Settles O53: the bound of each line is the guard of its case, and below it the byte is the word. -/
theorem programLinesAssembleToTheirWords : Obligations.ProgramLinesAssembleToTheirWords := by
  have word {n : Nat} (h : n ≤ 127) : byteWord n = BitVec.ofNat 9 n := byteWord_eq_ofNat (by omega)
  refine ⟨?byte, ?withVelocity, ?withoutVelocity, ?velocityRefused, ?noteRefused, rfl, fun _ => rfl⟩
  case byte =>
    intro x hx
    simp only [Line.words, if_pos hx, byteWord_eq_ofNat hx]
  case withVelocity =>
    intro n v hn hv
    rw [← word hn, ← word hv]
    exact ⟨if_pos ⟨hn, hv⟩, if_pos ⟨hn, hv⟩⟩
  case withoutVelocity =>
    intro n hn
    rw [← word hn]
    exact ⟨if_pos hn, if_pos hn⟩
  case velocityRefused =>
    intro n v above
    have refused : ¬ (n ≤ 127 ∧ v ≤ 127) := by omega
    exact ⟨if_neg refused, if_neg refused⟩
  case noteRefused => exact fun n above => ⟨if_neg (not_le.mpr above), if_neg (not_le.mpr above)⟩

theorem assembleEvents_of_reset_mem {ls : List Line} (h : .reset ∈ ls) : assembleEvents ls = none := by
  induction ls with
  | nil => cases h
  | cons l ls ih =>
    rcases List.mem_cons.mp h with rfl | later
    · rfl
    · simp only [assembleEvents, ih later]
      cases l.words <;> rfl

theorem assembleEvents_of_words {ls : List Line} {ws : List (List EventWord)}
    (h : List.Forall₂ (fun l w => l.words = some w) ls ws) : assembleEvents ls = some ws.flatten := by
  induction h with
  | nil => rfl
  | cons head _ ih => simp only [assembleEvents, head, ih, List.flatten_cons]

theorem assemble_reset_cons (ls : List Line) :
    assemble (.reset :: ls) = (assembleEvents ls).map fun ws => .reset :: ws.map .event := rfl

/-- Lines that assemble to events do not begin with `RESET`. -/
theorem assemble_of_events {ls : List Line} {ws : List EventWord} (h : assembleEvents ls = some ws) :
    assemble ls = some (ws.map .event) := by
  unfold assemble
  split
  · rw [assembleEvents_of_reset_mem List.mem_cons_self] at h
    cases h
  · rw [h, Option.map_some]

theorem assemble_cons_of_reset_mem (l : Line) {ls : List Line} (h : .reset ∈ ls) : assemble (l :: ls) = none := by
  unfold assemble
  split
  · rename_i eq
    cases eq
    rw [assembleEvents_of_reset_mem h, Option.map_none]
  · rw [assembleEvents_of_reset_mem (List.mem_cons_of_mem l h), Option.map_none]

/-- Settles O54: a later `RESET` has no words, and lines with words assemble by induction on the list. -/
theorem resetIsOnlyAFirstLine : Obligations.ResetIsOnlyAFirstLine := by
  refine ⟨fun l _ later => assemble_cons_of_reset_mem l later, fun ls ws words => ?_⟩
  have events := assembleEvents_of_words words
  exact ⟨assemble_of_events events, by rw [assemble_reset_cons, events, Option.map_some]⟩

end Machine

end Sys2Proof
end

section
/-! Proofs about the Table Selector (40_table_selector.md): the clamped quotient, its breakpoints, and the harmonics it
bounds. -/

namespace Sys2Proof.Machine

/-! ### The index as a clamped quotient -/

/-- One formula for every step: in natural numbers the quotient by 0 is 0, so R80's special case is the lower clamp. -/
theorem selectTable_eq_min (maxTable : Nat) (step : Phase) :
    selectTable maxTable step = min (32768 / step.toNat - 1) maxTable := by
  by_cases zero : step = 0#16
  · simp [zero]
  · simp only [selectTable, if_neg zero]
    split
    · omega
    · split <;> omega

theorem selectTable_of_div_eq {step : Phase} {j : Nat} (maxTable : Nat) (quotient : 32768 / step.toNat = j + 1) :
    selectTable maxTable step = min j maxTable := by
  rw [selectTable_eq_min, quotient, Nat.add_sub_cancel]

theorem selectTable_above_half {step : Phase} (maxTable : Nat) (above : 32768 < step.toNat) :
    selectTable maxTable step = 0 := by
  rw [selectTable_eq_min, Nat.div_eq_of_lt above, Nat.zero_sub, Nat.zero_min]

/-- Settles O7: the truncated subtraction of the clamped quotient is the integer one limited below by 0. -/
theorem selectTableFollowsItsFormula : Obligations.SelectTableFollowsItsFormula := by
  refine fun maxTable step => ⟨fun zero => zero ▸ selectTable_zero maxTable, fun _ => ?_⟩
  rw [selectTable_eq_min]
  omega

/-! ### Its breakpoints -/

/-- The divisor and the bound of a quotient change places. -/
theorem div_lt_iff_div_lt {a b c : Nat} (hb : 0 < b) (hc : 0 < c) : a / b < c ↔ a / c < b := by
  rw [Nat.div_lt_iff_lt_mul hb, Nat.div_lt_iff_lt_mul hc, Nat.mul_comm]

/-- The divisors that give a quotient of at least 1 are an interval. -/
theorem breakpoints_iff_div_eq (a b j : Nat) : (a / (j + 2) + 1 ≤ b ∧ b ≤ a / (j + 1)) ↔ a / b = j + 1 := by
  rcases Nat.eq_zero_or_pos b with rfl | positive
  · simp
  · have lower : a / b < j + 2 ↔ a / (j + 2) < b := div_lt_iff_div_lt positive (by omega)
    have upper : a / b < j + 1 ↔ a / (j + 1) < b := div_lt_iff_div_lt positive (by omega)
    omega

/-- Settles O8: a breakpoint range fixes the quotient, and the quotient fixes the index. -/
theorem selectTableBreakpoints : Obligations.SelectTableBreakpoints := by
  intro maxTable j step
  have range := breakpoints_iff_div_eq 32768 step.toNat j
  exact ⟨range, fun lower upper => selectTable_of_div_eq maxTable (range.mp ⟨lower, upper⟩),
    selectTable_above_half maxTable⟩

/-! ### Its order and its bound -/

/-- Settles O9: a larger divisor has no larger quotient, and the clamps keep the order. -/
theorem selectTableDoesNotRiseWithStep : Obligations.SelectTableDoesNotRiseWithStep := by
  intro maxTable s1 s2 positive le
  simp only [selectTable_eq_min]
  have quotients : 32768 / s2.toNat ≤ 32768 / s1.toNat := Nat.div_le_div_left le positive
  exact min_le_min_right maxTable (Nat.sub_le_sub_right quotients 1)

/-- Settles O10: the index plus one is at most the quotient, and short of `MAX_TABLE` it is the quotient. -/
theorem selectTableBoundsTheHarmonics : Obligations.SelectTableBoundsTheHarmonics := by
  intro maxTable step positive le
  have quotient : 0 < 32768 / step.toNat := Nat.div_pos le positive
  have index := selectTable_eq_min maxTable step
  constructor
  · have atMost : selectTable maxTable step + 1 ≤ 32768 / step.toNat := by omega
    exact (Nat.le_div_iff_mul_le positive).mp atMost
  · intro short
    have next : 32768 / step.toNat < selectTable maxTable step + 2 := by omega
    exact (Nat.div_lt_iff_lt_mul positive).mp next

end Sys2Proof.Machine
end

section
/-! Proofs about the oscillator bank and the mixer (41_oscillator_mixer.md): the level mixed from a voice file,
the state a TICK answers, and runs of TICKs as iterations of the two. -/

namespace Sys2Proof.Machine

/-! ### The mix as a level -/

/-- On a well-formed configuration the flat read of a voice is the entry of its table at its phase. -/
theorem memReadWT_sampleAddress {c : Config} {v : Voice} (wf : c.wf = true) (inRange : v.tidx ≤ c.maxTable) :
    ∃ x, memReadWT c v.sampleAddress = some x ∧ x.toNat = v.entryAt c v.acc.toNat := by
  obtain ⟨table, x, ht, hx, read⟩ :=
    flatAddressReadsItsTableEntry c v.tidx v.sampleIndex.toNat wf inRange v.sampleIndex.isLt
  refine ⟨x, read, ?_⟩
  simp only [Voice.entryAt, List.getD_eq_getElem?_getD, ht, Option.getD_some, ← Voice.sampleIndex_toNat, hx]

theorem mixSum_eq_some_sum {c : Config} {vs : List Voice} (wf : c.wf = true) (inRange : ∀ v ∈ vs, v.tidx ≤ c.maxTable) :
    mixSum c vs = some (vs.map fun v => v.entryAt c v.acc.toNat).sum := by
  induction vs with
  | nil => rfl
  | cons v vs ih =>
    obtain ⟨head, tail⟩ := List.forall_mem_cons.mp inRange
    obtain ⟨x, read, entry⟩ := memReadWT_sampleAddress wf head
    rw [mixSum_cons c v vs read (ih tail), entry, List.map_cons, List.sum_cons]

/-- The level of a voice file: the sum of the entries at the phases, shifted (R94). -/
def mixLevel (c : Config) (vs : List Voice) : Nat :=
  (vs.map fun v => v.entryAt c v.acc.toNat).sum / 2 ^ c.mixShift

/-! ### The state one TICK answers -/

/-- The sample of the next TICK: the level of the advanced voices (D4). -/
def State.nextSample (s : State) : Byte := BitVec.ofNat 8 (mixLevel s.cfg (s.voices.map Voice.advance))

/-- The state after one TICK that completes. -/
def State.afterTick (s : State) : State := (s.withVoices (s.voices.map Voice.advance)).emit s.nextSample

@[simp] theorem State.afterTick_cfg (s : State) : s.afterTick.cfg = s.cfg := rfl
@[simp] theorem State.afterTick_voices (s : State) : s.afterTick.voices = s.voices.map Voice.advance := rfl
@[simp] theorem State.afterTick_parser (s : State) : s.afterTick.parser = s.parser := rfl
@[simp] theorem State.afterTick_inputs (s : State) : s.afterTick.inputs = s.inputs := rfl
@[simp] theorem State.afterTick_emitted (s : State) : s.afterTick.emitted = s.emitted ++ [s.nextSample] := rfl

/-- The mix of the advanced voices exists, and the next sample is a u8 that holds its level whole. -/
theorem State.sampleOf_nextMix {s : State} (wf : s.cfg.wf = true) (size : s.voices.length = s.cfg.n)
    (inRange : s.TidxInRange) :
    ∃ sum, mixSum s.cfg (s.voices.map Voice.advance) = some sum ∧ sampleOf s.cfg sum = some s.nextSample ∧
      s.nextSample.toNat = mixLevel s.cfg (s.voices.map Voice.advance) := by
  have advancedInRange : ∀ v ∈ s.voices.map Voice.advance, v.tidx ≤ s.cfg.maxTable := List.forall_mem_map.mpr inRange
  obtain ⟨sum, mix, bound⟩ := mixSum_isSome wf _ advancedInRange
  rw [List.length_map, size] at bound
  obtain ⟨sample, fits⟩ := sampleOf_isSome wf bound
  have level : sum >>> s.cfg.mixShift = mixLevel s.cfg (s.voices.map Voice.advance) := by
    rw [Nat.shiftRight_eq_div_pow, Option.some.inj (mix.symm.trans (mixSum_eq_some_sum wf advancedInRange)), mixLevel]
  rw [level] at sample fits
  exact ⟨sum, mix, sample, (BitVec.toNat_ofNat ..).trans (Nat.mod_eq_of_lt (Nat.lt_succ_of_le fits))⟩

theorem execTick_eq_afterTick {s : State} (low : Byte) (wf : s.cfg.wf = true) (size : s.voices.length = s.cfg.n)
    (inRange : s.TidxInRange) : execTick low s = .next s.afterTick := by
  obtain ⟨sum, mix, sample, -⟩ := State.sampleOf_nextMix wf size inRange
  exact execTick_eq_next_iff.mpr ⟨sum, _, mix, sample, rfl⟩

theorem State.nextSample_toNat {s : State} (wf : s.cfg.wf = true) (size : s.voices.length = s.cfg.n)
    (inRange : s.TidxInRange) : s.nextSample.toNat = mixLevel s.cfg (s.voices.map Voice.advance) := by
  obtain ⟨_, -, -, level⟩ := State.sampleOf_nextMix wf size inRange
  exact level

/-- Settles O15: every voice of the state a TICK answers is the old one, advanced. -/
theorem tickAdvancesEveryPhaseAndNothingElse : Obligations.TickAdvancesEveryPhaseAndNothingElse := by
  intro s wf size inRange
  refine ⟨s.afterTick, fun low => execTick_eq_afterTick low wf size inRange, rfl, rfl, rfl, by simp, ?_⟩
  intro k v hv
  exact ⟨v.advance, by simp [hv], BitVec.toNat_add .., rfl, rfl, rfl, rfl⟩

/-- Settles O16: the sample is the level of the advanced voices, each read at its advanced phase. -/
theorem tickEmitsTheMixOfAdvancedVoices : Obligations.TickEmitsTheMixOfAdvancedVoices := by
  intro s low wf size inRange
  refine ⟨s.afterTick, s.nextSample, execTick_eq_afterTick low wf size inRange, rfl, ?_⟩
  rw [State.nextSample_toNat wf size inRange, mixLevel, List.map_map]
  simp only [Function.comp_def, Voice.advance_acc, BitVec.toNat_add]
  rfl

/-! ### What the sample depends on -/

/-- Lists with one image under `g` have one image under every function of `g`. -/
theorem map_eq_map_of_factorsThrough {α β γ : Type} [Nonempty γ] {f : α → γ} {g : α → β}
    (factors : f.FactorsThrough g) {l l' : List α} (h : l.map g = l'.map g) : l.map f = l'.map f := by
  obtain ⟨e, rfl⟩ := (Function.factorsThrough_iff f).mp factors
  rw [← List.map_map, h, List.map_map]

/-- The mix reads the voices at their flat addresses alone. -/
theorem mixSum_congr (c : Config) {vs ws : List Voice}
    (h : vs.map Voice.sampleAddress = ws.map Voice.sampleAddress) : mixSum c vs = mixSum c ws := by
  induction vs generalizing ws with
  | nil => rw [List.map_eq_nil_iff.mp h.symm]
  | cons v vs ih =>
    obtain ⟨w, ws, rfl, head, tail⟩ := List.map_eq_cons_iff.mp h.symm
    simp only [mixSum, head, ih tail.symm]

/-- Settles O18: the advanced phase and the flat address after the advance are functions of `acc`, `step` and `tidx`. -/
theorem sampleDependsOnPhaseStepAndIndexAlone : Obligations.SampleDependsOnPhaseStepAndIndexAlone := by
  intro s s' t low low' b cfg voices answer emitted
  have phases : Function.FactorsThrough (Voice.acc ∘ Voice.advance) fun v => (v.acc, v.step, v.tidx) := by
    rintro ⟨⟩ ⟨⟩ ⟨⟩
    rfl
  have addresses : Function.FactorsThrough (Voice.sampleAddress ∘ Voice.advance) fun v => (v.acc, v.step, v.tidx) := by
    rintro ⟨⟩ ⟨⟩ ⟨⟩
    rfl
  obtain ⟨sum, b', mix, sample, rfl⟩ := (execTick_eq_next_iff (low := low)).mp answer
  obtain rfl : b' = b := by simpa using emitted
  have reads : (s.voices.map Voice.advance).map Voice.sampleAddress =
      (s'.voices.map Voice.advance).map Voice.sampleAddress := by
    simpa only [List.map_map] using map_eq_map_of_factorsThrough addresses voices
  rw [mixSum_congr s.cfg reads, cfg] at mix
  rw [cfg] at sample
  refine ⟨_, (execTick_eq_next_iff (low := low')).mpr ⟨sum, b', mix, sample, rfl⟩, rfl, ?_⟩
  simpa using (map_eq_map_of_factorsThrough phases voices).symm

/-! ### Runs of TICKs -/

theorem State.Inv.exec_tickEvent {s : State} (h : s.Inv) : exec (decode tickEvent) s = .next s.afterTick :=
  execTick_eq_afterTick 0#8 h.configured h.fileSize h.tidxInRange

/-- `m` TICKs run and are the `m`-fold iteration of one. -/
theorem runs_ticks {s : State} {m : Nat} {rest : List Input} (h : s.Inv)
    (inputs : s.inputs = List.replicate m (.event tickEvent) ++ rest) :
    Runs m s (State.afterTick^[m] (s.withInputs rest)) := by
  induction m generalizing s with
  | zero =>
    obtain rfl : s.inputs = rest := inputs
    exact runs_zero_iff.mpr rfl
  | succ m ih =>
    have taken : (s.withInputs (List.replicate m (.event tickEvent) ++ rest)).Inv :=
      h.of_same_registers rfl rfl rfl
    have first := (step_of_event inputs).trans taken.exec_tickEvent
    exact runs_succ_iff.mpr ⟨_, first, ih (step_keeps_inv h first) rfl⟩

theorem State.afterTick_iterate_voices (m : Nat) (s : State) :
    (State.afterTick^[m] s).voices = s.voices.map Voice.advance^[m] := by
  induction m generalizing s with
  | zero => exact (List.map_id _).symm
  | succ m ih => rw [Function.iterate_succ_apply, ih, State.afterTick_voices, List.map_map, ← Function.iterate_succ]

theorem State.afterTick_iterate_parser (m : Nat) (s : State) : (State.afterTick^[m] s).parser = s.parser := by
  induction m generalizing s with
  | zero => rfl
  | succ m ih => rw [Function.iterate_succ_apply, ih, State.afterTick_parser]

theorem State.afterTick_iterate_inputs (m : Nat) (s : State) : (State.afterTick^[m] s).inputs = s.inputs := by
  induction m generalizing s with
  | zero => rfl
  | succ m ih => rw [Function.iterate_succ_apply, ih, State.afterTick_inputs]

theorem State.afterTick_iterate_emitted_length (m : Nat) (s : State) :
    (State.afterTick^[m] s).emitted.length = s.emitted.length + m := by
  induction m generalizing s with
  | zero => rfl
  | succ m ih =>
    rw [Function.iterate_succ_apply, ih, State.afterTick_emitted, List.length_append, List.length_singleton]
    omega

/-! ### The phase of a voice -/

/-- `m` advances move the phase by `m` steps at once, and nothing else of the voice. -/
theorem Voice.advance_iterate (m : Nat) (v : Voice) :
    Voice.advance^[m] v = { v with acc := v.acc + BitVec.ofNat 16 m * v.step } := by
  induction m with
  | zero => simp
  | succ m ih =>
    rw [Function.iterate_succ_apply', ih, Voice.advance, BitVec.ofNat_add, BitVec.add_mul, BitVec.one_mul,
      BitVec.add_assoc]

theorem Voice.advance_iterate_acc_toNat (m : Nat) (v : Voice) :
    (Voice.advance^[m] v).acc.toNat = (v.acc.toNat + m * v.step.toNat) % 2 ^ 16 := by
  simp [Voice.advance_iterate]

/-- Settles O19: `m` TICKs advance each voice `m` times. -/
theorem ticksMoveEachPhaseLinearly : Obligations.TicksMoveEachPhaseLinearly := by
  intro s m rest h inputs
  refine ⟨_, runs_ticks h inputs, State.afterTick_iterate_inputs .., State.afterTick_iterate_parser ..,
    State.afterTick_iterate_emitted_length .., ?_⟩
  intro k v hv
  refine ⟨Voice.advance^[m] v, by simp [State.afterTick_iterate_voices, hv], v.advance_iterate_acc_toNat m, ?_⟩
  rw [Voice.advance_iterate]
  exact ⟨rfl, rfl, rfl, rfl⟩

theorem div_gcd_dvd_iff_dvd_mul {n : Nat} (positive : 0 < n) (a m : Nat) : n / Nat.gcd a n ∣ m ↔ n ∣ a * m := by
  rw [Nat.div_dvd_iff_dvd_mul (Nat.gcd_dvd_right a n) (Nat.gcd_pos_of_pos_right a positive), Nat.gcd_comm,
    Nat.dvd_gcd_mul_iff_dvd_mul]

theorem Voice.advance_iterate_acc_eq_iff (m : Nat) (v : Voice) :
    (Voice.advance^[m] v).acc = v.acc ↔ 2 ^ 16 / Nat.gcd v.step.toNat (2 ^ 16) ∣ m := by
  have inPhase := v.acc.isLt
  rw [div_gcd_dvd_iff_dvd_mul (by decide), Nat.mul_comm, ← BitVec.toNat_inj, Voice.advance_iterate_acc_toNat]
  omega

/-- Settles O20: after `m` TICKs the voice has advanced `m` times. -/
theorem phaseReturnsExactlyAtItsPeriod : Obligations.PhaseReturnsExactlyAtItsPeriod :=
  fun _ m _ _ v h inputs hv =>
    ⟨_, Voice.advance^[m] v, runs_ticks h inputs, by simp [State.afterTick_iterate_voices, hv],
      v.advance_iterate_acc_eq_iff m⟩

/-! ### Silent voices -/

theorem Voice.advance_of_step_zero {v : Voice} (silent : v.step = 0#16) : v.advance = v :=
  Voice.ext rfl rfl rfl (by rw [Voice.advance_acc, silent, BitVec.add_zero]) rfl

theorem map_advance_of_silent {vs : List Voice} (silent : ∀ v ∈ vs, v.step = 0#16) : vs.map Voice.advance = vs :=
  (List.map_congr_left fun v hv => Voice.advance_of_step_zero (silent v hv)).trans (List.map_id vs)

/-- With every step 0 the voices stay, so each TICK appends the one sample of their level. -/
theorem State.afterTick_iterate_of_silent (m : Nat) {s : State} (silent : ∀ v ∈ s.voices, v.step = 0#16) :
    State.afterTick^[m] s = s.withEmitted (s.emitted ++ List.replicate m s.nextSample) := by
  induction m with
  | zero => simp [State.withEmitted]
  | succ m ih =>
    rw [Function.iterate_succ_apply', ih, List.replicate_succ', ← List.append_assoc]
    simp only [State.afterTick, State.withEmitted_voices, map_advance_of_silent silent]
    rfl

/-- Settles O21: a released voice has step 0, which R24 gives index 0. -/
theorem releasedVoicesGiveAConstantLevel : Obligations.ReleasedVoicesGiveAConstantLevel := by
  intro s m rest h released inputs
  have silent : ∀ v ∈ s.voices, v.step = 0#16 := fun v hv => h.silent v hv (released v hv)
  have firstTable : ∀ v ∈ s.voices, v.tidx = 0 := fun v hv => by rw [h.coherent v hv, silent v hv, selectTable_zero]
  have run := runs_ticks h inputs
  rw [State.afterTick_iterate_of_silent (s := s.withInputs rest) m silent] at run
  refine ⟨_, s.nextSample, run, rfl, rfl, ?_⟩
  rw [State.nextSample_toNat h.configured h.fileSize h.tidxInRange, map_advance_of_silent silent, mixLevel]
  congr 2
  exact List.map_congr_left fun v hv => by rw [Voice.entryAt, firstTable v hv]

end Sys2Proof.Machine
end

section
/-! Proofs about the voice allocator (42_voice_allocator.md): the first data byte of a message, a voice file in which
one voice is rewritten, and runs of whole note messages. -/

namespace Sys2Proof.Machine

/-! ### The slot a verb takes -/

theorem findIdx?_eq_some_of_getElem? {α : Type} {p : α → Bool} {l : List α} {k : Nat} {a : α} (entry : l[k]? = some a)
    (holds : p a = true) (before : ∀ j b, j < k → l[j]? = some b → p b = false) : l.findIdx? p = some k := by
  obtain ⟨inList, rfl⟩ := List.getElem?_eq_some_iff.mp entry
  refine List.findIdx?_eq_some_iff_getElem.mpr ⟨inList, holds, fun j earlier => ?_⟩
  exact Bool.eq_false_iff.mp (before j _ earlier (List.getElem?_eq_getElem _))

theorem modify_eq_set_of_getElem? {α : Type} {f : α → α} {l : List α} {k : Nat} {a : α} (entry : l[k]? = some a) :
    l.modify k f = l.set k (f a) := by
  rw [List.modify_eq_set_getElem?, entry]
  rfl

theorem Voice.isFree_eq_true_iff {v : Voice} : v.isFree = true ↔ v.active = false := by
  simp [Voice.isFree]

theorem Voice.isFree_eq_false_iff {v : Voice} : v.isFree = false ↔ v.active = true := by
  simp [Voice.isFree]

theorem Voice.sounds_eq_true_iff {n : Note} {v : Voice} : v.sounds n = true ↔ v.active = true ∧ v.note = n := by
  simp [Voice.sounds]

theorem Voice.sounds_eq_false_iff {n : Note} {v : Voice} : v.sounds n = false ↔ (v.active = true → v.note ≠ n) := by
  simp [Voice.sounds]

theorem noteOn_of_firstFree {n : Note} {s : State} {k : Nat} (found : s.voices.findIdx? Voice.isFree = some k) :
    noteOn n s = refresh (s.withVoices (s.voices.modify k (Voice.bound n (memReadPITCH s.cfg n)))) := by
  simp only [noteOn, found]

theorem noteOff_of_firstMatch {n : Note} {s : State} {k : Nat} (found : s.voices.findIdx? (Voice.sounds n) = some k) :
    noteOff n s = refresh (s.withVoices (s.voices.modify k Voice.released)) := by
  simp only [noteOff, found]

/-! ### The first data byte -/

theorem execData_first_noteOn {s : State} (b : Note) (status : s.parser.status = .expectingNoteOnData)
    (count : s.parser.dc = 0) : execData b s = .next (noteOn b s).countData := by
  simp only [execData, status, dataVerb, count, if_true, runVerb]

theorem execData_first_noteOff {s : State} (b : Note) (status : s.parser.status = .expectingNoteOffData)
    (count : s.parser.dc = 0) : execData b s = .next (noteOff b s).countData := by
  simp only [execData, status, dataVerb, count, if_true, runVerb]

/-- The count follows R134's `inc` under every limit to which the spec gives a value. -/
theorem countsTo_incDataCount (limit : Option Nat) (d : Nat) : CountsTo limit d (incDataCount limit d) := by
  constructor
  · rintro rfl
    rfl
  · rintro (_ | m) rfl positive
    · exact absurd positive (lt_irrefl 0)
    · rfl

/-- Settles O31: the slot is the first free one, and a modified slot that holds `v` is set to the bound `v`. -/
theorem firstDataByteBindsTheFirstFreeVoice : Obligations.FirstDataByteBindsTheFirstFreeVoice := by
  intro s b k v status count entry inactive before
  have found : s.voices.findIdx? Voice.isFree = some k :=
    findIdx?_eq_some_of_getElem? entry (Voice.isFree_eq_true_iff.mpr inactive)
      fun j w earlier hw => Voice.isFree_eq_false_iff.mpr (before j w earlier hw)
  have answer := execData_first_noteOn b status count
  rw [noteOn_of_firstFree found, modify_eq_set_of_getElem? entry] at answer
  exact ⟨_, answer, rfl, rfl, rfl, status, count ▸ countsTo_incDataCount .., rfl⟩

/-- Settles O34: the slot is the first that sounds `b`, and a modified slot that holds `v` is set to the released `v`. -/
theorem firstDataByteReleasesTheFirstMatch : Obligations.FirstDataByteReleasesTheFirstMatch := by
  intro s b k v status count entry active bound before
  have found : s.voices.findIdx? (Voice.sounds b) = some k :=
    findIdx?_eq_some_of_getElem? entry (Voice.sounds_eq_true_iff.mpr ⟨active, bound⟩)
      fun j w earlier hw => Voice.sounds_eq_false_iff.mpr (before j w earlier hw)
  have answer := execData_first_noteOff b status count
  rw [noteOff_of_firstMatch found, modify_eq_set_of_getElem? entry] at answer
  exact ⟨_, answer, rfl, rfl, rfl, status, count ▸ countsTo_incDataCount .., rfl⟩

/-! ### One rewritten voice -/

/-- On a coherent file the global refresh after a rewritten voice is a refresh of that voice (R112). -/
theorem map_refreshed_modify {c : Config} {vs : List Voice} (coherent : ∀ v ∈ vs, v.Coherent c) (k : Nat)
    (f : Voice → Voice) :
    (vs.modify k f).map (Voice.refreshed c.maxTable) = vs.modify k (Voice.refreshed c.maxTable ∘ f) := by
  refine List.ext_getElem? fun j => ?_
  rw [List.getElem?_map, List.getElem?_modify, List.getElem?_modify]
  cases entry : vs[j]? with
  | none => rfl
  | some v =>
    have kept : v.refreshed c.maxTable = v := Voice.refreshed_eq_self (coherent v (List.mem_of_getElem? entry))
    by_cases h : k = j <;> simp [h, kept]

/-- The voice that sounds note `n` on a slot that held `v`. -/
def Voice.playing (c : Config) (n : Note) (v : Voice) : Voice :=
  (v.bound n (memReadPITCH c n)).refreshed c.maxTable

/-- The silent voice on a slot that held `v`. -/
def Voice.silenced (c : Config) (v : Voice) : Voice := v.released.refreshed c.maxTable

theorem noteOn_voices {s : State} {n : Note} {k : Nat} (coherent : ∀ v ∈ s.voices, v.Coherent s.cfg)
    (found : s.voices.findIdx? Voice.isFree = some k) :
    (noteOn n s).voices = s.voices.modify k (Voice.playing s.cfg n) := by
  rw [noteOn_of_firstFree found]
  exact map_refreshed_modify coherent k _

theorem noteOff_voices {s : State} {n : Note} {k : Nat} (coherent : ∀ v ∈ s.voices, v.Coherent s.cfg)
    (found : s.voices.findIdx? (Voice.sounds n) = some k) :
    (noteOff n s).voices = s.voices.modify k (Voice.silenced s.cfg) := by
  rw [noteOff_of_firstMatch found]
  exact map_refreshed_modify coherent k _

/-- On a coherent file a verb rewrites one voice at most. -/
theorem runVerb_voices_eq_modify {s : State} (coherent : ∀ v ∈ s.voices, v.Coherent s.cfg) (verb : Option Verb) :
    ∃ k f, (runVerb verb s).voices = s.voices.modify k f := by
  have unchanged : s.voices = s.voices.modify 0 id := (List.modify_id 0 _).symm
  match verb with
  | none => exact ⟨0, id, unchanged⟩
  | some (.noteOn n) =>
    rcases noteOn_cases n s with ⟨k, found, -⟩ | ⟨-, drop⟩
    · exact ⟨k, _, noteOn_voices coherent found⟩
    · exact ⟨0, id, (congrArg State.voices drop).trans unchanged⟩
  | some (.noteOff n) =>
    rcases noteOff_cases n s with ⟨k, found, -⟩ | ⟨-, ignore⟩
    · exact ⟨k, _, noteOff_voices coherent found⟩
    · exact ⟨0, id, (congrArg State.voices ignore).trans unchanged⟩

/-- A BYTE acts on the voices through at most one verb. -/
theorem exec_byte_voices {i : Instr} (byte : ∀ low, i ≠ .tick low) (s : State) :
    ∃ t verb, exec i s = .next t ∧ t.voices = (runVerb verb s).voices := by
  cases i with
  | stNoteOn => exact ⟨_, none, rfl, rfl⟩
  | stNoteOff => exact ⟨_, none, rfl, rfl⟩
  | stOther sel => exact ⟨_, none, rfl, rfl⟩
  | data b =>
    by_cases idle : s.parser.status = .idle
    · exact ⟨s, none, execData_of_idle idle, rfl⟩
    · exact ⟨_, dataVerb s.parser b, execData_of_armed idle, rfl⟩
  | tick low => exact absurd rfl (byte low)

/-- Settles O36: the one verb rewrites one voice at most. -/
theorem byteChangesAtMostOneVoice : Obligations.ByteChangesAtMostOneVoice := by
  intro s i byte coherent
  obtain ⟨t, verb, answer, voices⟩ := exec_byte_voices byte s
  obtain ⟨k, f, modified⟩ := runVerb_voices_eq_modify coherent verb
  rw [← voices] at modified
  refine ⟨t, k, answer, ?_, fun j other => ?_⟩
  · rw [modified, List.length_modify]
  · rw [modified, List.getElem?_modify_ne f _ other.symm]

/-! ### Runs of note messages -/

theorem Runs.trans {j k : Nat} {s t u : State} (first : Runs j s t) (second : Runs k t u) : Runs (j + k) s u := by
  induction j generalizing s with
  | zero =>
    obtain rfl := runs_zero_iff.mp first
    rwa [Nat.zero_add]
  | succ j ih =>
    obtain ⟨v, head, tail⟩ := runs_succ_iff.mp first
    rw [Nat.succ_add]
    exact runs_succ_iff.mpr ⟨v, head, ih tail⟩

theorem Runs.keeps_inv {k : Nat} {s t : State} (run : Runs k s t) (h : s.Inv) : t.Inv := by
  induction k generalizing s with
  | zero => exact runs_zero_iff.mp run ▸ h
  | succ k ih =>
    obtain ⟨u, first, rest⟩ := runs_succ_iff.mp run
    exact ih rest (step_keeps_inv h first)

/-- A note message has run from `s` to `t`: two words are gone, the parser waits in `st`, the voices are `vs`, and
nothing else has changed but the count. -/
structure MessageRan (s t : State) (st : ParserStatus) (vs : List Voice) (rest : List Input) : Prop where
  run : Runs 2 s t
  cfg : t.cfg = s.cfg
  voices : t.voices = vs
  status : t.parser.status = st
  inputs : t.inputs = rest
  emitted : t.emitted = s.emitted

/-- A status byte that enters the armed state `st`, then a data byte: the verb acts on the voices as they were. -/
theorem exists_messageRan {i : Instr} {st : ParserStatus} (wf : i.wf = true)
    (enters : ∀ u, exec i u = .next (u.enterParserState st)) (armed : st ≠ .idle) {s : State} {b : Note}
    {rest : List Input} (inputs : s.inputs = .event (encode i) :: .event (encode (.data b)) :: rest) :
    ∃ t, MessageRan s t st (runVerb (dataVerb ⟨st, 0⟩ b) s).voices rest := by
  have status := (step_of_encode wf inputs).trans (enters _)
  have data : step ((s.withInputs (.event (encode (.data b)) :: rest)).enterParserState st) =
      execData b ((s.withInputs rest).withParser ⟨st, 0⟩) := step_of_encode (i := .data b) rfl rfl
  rw [execData_of_armed armed] at data
  exact ⟨_, {
    run := runs_succ_iff.mpr ⟨_, status, runs_succ_iff.mpr ⟨_, data, runs_zero_iff.mpr rfl⟩⟩
    cfg := by simp
    voices := runVerb_voices_congr _ rfl rfl
    status := by simp
    inputs := by simp
    emitted := by simp }⟩

theorem exists_noteOnRan {s : State} {b : Note} {rest : List Input}
    (inputs : s.inputs = .event (encode .stNoteOn) :: .event (encode (.data b)) :: rest) :
    ∃ t, MessageRan s t .expectingNoteOnData (noteOn b s).voices rest :=
  exists_messageRan (st := .expectingNoteOnData) rfl (fun _ => rfl) nofun inputs

theorem exists_noteOffRan {s : State} {b : Note} {rest : List Input}
    (inputs : s.inputs = .event (encode .stNoteOff) :: .event (encode (.data b)) :: rest) :
    ∃ t, MessageRan s t .expectingNoteOffData (noteOff b s).voices rest :=
  exists_messageRan (st := .expectingNoteOffData) rfl (fun _ => rfl) nofun inputs

/-! ### Note-ons from reset -/

/-- The words of the Note-On messages of some notes. -/
def noteOnWords (notes : List Note) : List EventWord :=
  notes.flatMap fun n => [encode .stNoteOn, encode (.data n)]

/-- The first free slot after sounding voices takes the note. -/
theorem noteOn_voices_append {s : State} {n : Note} {sounding free : List Voice} {v : Voice}
    (coherent : ∀ w ∈ s.voices, w.Coherent s.cfg) (voices : s.voices = sounding ++ v :: free)
    (active : ∀ w ∈ sounding, w.active = true) (inactive : v.active = false) :
    (noteOn n s).voices = sounding ++ v.playing s.cfg n :: free := by
  have busy : sounding.findIdx? Voice.isFree = none :=
    List.findIdx?_eq_none_iff.mpr fun w hw => Voice.isFree_eq_false_iff.mpr (active w hw)
  have found : s.voices.findIdx? Voice.isFree = some sounding.length := by
    simp [voices, List.findIdx?_append, List.findIdx?_cons, busy, Voice.isFree_eq_true_iff.mpr inactive]
  have entry : (sounding ++ v :: free)[sounding.length]? = some v := by simp
  rw [noteOn_voices coherent found, voices, modify_eq_set_of_getElem? entry]
  simp

/-- Note-ons fill the reset voices that follow sounding ones, in order. -/
theorem runs_noteOns {notes : List Note} {s : State} {sounding : List Voice} {m : Nat} {rest : List Input} (h : s.Inv)
    (voices : s.voices = sounding ++ List.replicate (notes.length + m) Voice.reset)
    (active : ∀ v ∈ sounding, v.active = true) (inputs : s.inputs = (noteOnWords notes).map .event ++ rest) :
    ∃ t, Runs (2 * notes.length) s t ∧ t.inputs = rest ∧ t.emitted = s.emitted ∧
      t.voices = sounding ++ notes.map (Voice.playing s.cfg · .reset) ++ List.replicate m Voice.reset := by
  induction notes generalizing s sounding with
  | nil => exact ⟨s, runs_zero_iff.mpr rfl, inputs, rfl, by simpa using voices⟩
  | cons n notes ih =>
    obtain ⟨u, noteOnRan⟩ := exists_noteOnRan (rest := (noteOnWords notes).map .event ++ rest) inputs
    rw [List.length_cons, Nat.add_right_comm, List.replicate_succ] at voices
    have filled := noteOnRan.voices.trans (noteOn_voices_append h.coherent voices active Voice.reset_active)
    obtain ⟨t, run, done, emitted, final⟩ := ih (sounding := sounding ++ [Voice.reset.playing s.cfg n])
      (noteOnRan.run.keeps_inv h) (by simpa using filled)
      (List.forall_mem_append.mpr ⟨active, List.forall_mem_singleton.mpr rfl⟩) noteOnRan.inputs
    refine ⟨t, ?_, done, emitted.trans noteOnRan.emitted, by simpa [noteOnRan.cfg] using final⟩
    rw [List.length_cons, Nat.mul_succ, Nat.add_comm]
    exact noteOnRan.run.trans run

/-- Settles O37: the reset file is all free voices, so the notes fill it from the front. -/
theorem noteOnsFromResetFillTheVoicesInOrder : Obligations.NoteOnsFromResetFillTheVoicesInOrder := by
  intro c notes wf fits
  obtain ⟨m, size⟩ := Nat.exists_eq_add_of_le fits
  have start : ((State.resetWith c).feed (noteOnWords notes)).Inv := (resetWith_inv wf).of_same_registers rfl rfl rfl
  obtain ⟨t, run, done, emitted, voices⟩ := runs_noteOns (notes := notes) (sounding := []) (m := m) (rest := []) start
    (congrArg (List.replicate · Voice.reset) size) nofun (List.append_nil _).symm
  refine ⟨t, run, done, emitted, ?_, fun k n hn => ?_, fun k after inFile => ?_⟩
  · simp [voices, size]
  · have inNotes : k < notes.length := (List.getElem?_eq_some_iff.mp hn).1
    rw [voices, List.nil_append, List.getElem?_append_left (by simpa), List.getElem?_map, hn]
    rfl
  · rw [voices, List.nil_append, List.getElem?_append_right (by simpa), List.getElem?_replicate_of_lt]
    rw [List.length_map]
    omega

/-! ### Note-On, then Note-Off -/

/-- Where no entry has the property, the modified one is the first that has it. -/
theorem findIdx?_modify_of_none {α : Type} {p : α → Bool} {f : α → α} {l : List α} {k : Nat} {a : α}
    (absent : ∀ b ∈ l, p b = false) (entry : l[k]? = some a) (holds : p (f a) = true) :
    (l.modify k f).findIdx? p = some k := by
  refine findIdx?_eq_some_of_getElem? (a := f a) (by simp [entry]) holds fun j b earlier hb => ?_
  rw [List.getElem?_modify_ne f l (Nat.ne_of_gt earlier)] at hb
  exact absent b (List.mem_of_getElem? hb)

theorem forall₂_modify_self {α : Type} {R : α → α → Prop} (refl : ∀ a, R a a) {f : α → α} {l : List α} {k : Nat} {a : α}
    (entry : l[k]? = some a) (related : R a (f a)) : List.Forall₂ R l (l.modify k f) := by
  refine List.forall₂_iff_get.mpr ⟨(List.length_modify ..).symm, fun j hj _ => ?_⟩
  rw [List.get_eq_getElem, List.get_eq_getElem, List.getElem_modify]
  split
  · next same =>
    subst same
    obtain rfl : l[k] = a := (List.getElem?_eq_some_iff.mp entry).2
    exact related
  · exact refl _

/-- A silent coherent voice that plays a note and is silenced again differs in its note alone. -/
theorem Voice.sameButStaleNote_silenced_playing {c : Config} {v : Voice} (n : Note) (inactive : v.active = false)
    (silent : v.SilentWhenInactive) (coherent : v.Coherent c) :
    v.SameButStaleNote ((v.playing c n).silenced c) where
  active := inactive
  step := silent inactive
  acc := rfl
  tidx := by
    rw [coherent, silent inactive]
    rfl
  note := fun active => absurd (inactive.symm.trans active) Bool.false_ne_true

/-- A file with an inactive voice has a first free slot. -/
theorem exists_firstFree {vs : List Voice} (free : ∃ v ∈ vs, v.active = false) :
    ∃ k v, vs.findIdx? Voice.isFree = some k ∧ vs[k]? = some v ∧ v.active = false := by
  obtain ⟨k, found⟩ : ∃ k, vs.findIdx? Voice.isFree = some k := by
    rw [← Option.isSome_iff_exists, List.findIdx?_isSome, List.any_eq_true]
    simpa only [Voice.isFree_eq_true_iff] using free
  obtain ⟨inFile, isFree, -⟩ := List.findIdx?_eq_some_iff_getElem.mp found
  exact ⟨k, _, found, List.getElem?_eq_getElem inFile, Voice.isFree_eq_true_iff.mp isFree⟩

/-- `note_off` finds the one slot that plays the note and silences it. -/
theorem noteOff_voices_of_playing {s : State} {n : Note} {vs : List Voice} {k : Nat} {v : Voice}
    (coherent : ∀ w ∈ s.voices, w.Coherent s.cfg) (playing : s.voices = vs.modify k (Voice.playing s.cfg n))
    (unsounded : ∀ w ∈ vs, w.active = true → w.note ≠ n) (entry : vs[k]? = some v) :
    (noteOff n s).voices = vs.modify k (Voice.silenced s.cfg ∘ Voice.playing s.cfg n) := by
  have found : s.voices.findIdx? (Voice.sounds n) = some k := by
    rw [playing]
    exact findIdx?_modify_of_none (fun w hw => Voice.sounds_eq_false_iff.mpr (unsounded w hw)) entry
      (Voice.sounds_eq_true_iff.mpr ⟨rfl, rfl⟩)
  rw [noteOff_voices coherent found, playing, List.modify_modify_eq]

/-- Settles O38: the Note-Off finds the very slot the Note-On took, since no other voice sounds the note. -/
theorem noteOnThenNoteOffLeavesOnlyAStaleNote : Obligations.NoteOnThenNoteOffLeavesOnlyAStaleNote := by
  intro s b rest h free unsounded inputs
  obtain ⟨k, v, found, entry, inactive⟩ := exists_firstFree free
  have mem := List.mem_of_getElem? entry
  obtain ⟨u, noteOnRan⟩ := exists_noteOnRan inputs
  have playing := noteOnRan.voices.trans (noteOn_voices h.coherent found)
  rw [← noteOnRan.cfg] at playing
  obtain ⟨t, noteOffRan⟩ := exists_noteOffRan noteOnRan.inputs
  have silenced := noteOffRan.voices.trans
    (noteOff_voices_of_playing (noteOnRan.run.keeps_inv h).coherent playing unsounded entry)
  refine ⟨t, noteOnRan.run.trans noteOffRan.run, ?_, noteOffRan.status, noteOffRan.inputs,
    noteOffRan.emitted.trans noteOnRan.emitted⟩
  rw [silenced, noteOnRan.cfg]
  exact forall₂_modify_self .refl entry
    (Voice.sameButStaleNote_silenced_playing b inactive (h.silent v mem) (h.coherent v mem))

end Sys2Proof.Machine
end

section
/-! Proofs about the parser (43_midi_parser.md): the status bytes, a data byte that calls no verb and runs of such bytes,
and what every BYTE leaves unchanged. -/

namespace Sys2Proof.Machine

/-! ### Status bytes -/

theorem exec_stNoteOn (s : State) : exec .stNoteOn s = .next (s.enterParserState .expectingNoteOnData) := rfl

theorem exec_stNoteOff (s : State) : exec .stNoteOff s = .next (s.enterParserState .expectingNoteOffData) := rfl

theorem exec_stOther (sel : BitVec 7) (s : State) : exec (.stOther sel) s = .next (s.enterParserState .idle) := rfl

/-- Settles O23: the state entered holds the byte 0x90. -/
theorem noteOnStatusArmsTheParser : Obligations.NoteOnStatusArmsTheParser :=
  fun s => ⟨_, exec_stNoteOn s, rfl, rfl⟩

/-- Settles O24: the state entered holds the byte 0x80. -/
theorem noteOffStatusArmsTheParser : Obligations.NoteOffStatusArmsTheParser :=
  fun s => ⟨_, exec_stNoteOff s, rfl, rfl⟩

/-- Settles O25: the state entered is `Idle`, whatever the operand. -/
theorem otherStatusReturnsTheParserToIdle : Obligations.OtherStatusReturnsTheParserToIdle :=
  fun s sel => ⟨_, exec_stOther sel s, rfl, rfl, rfl⟩

/-! ### A data byte that calls no verb -/

/-- Settles O26: the `Idle` case of a data byte. -/
theorem dataInIdleIsIgnored : Obligations.DataInIdleIsIgnored :=
  fun _ _ => execData_of_idle

/-- Only the first data byte after a status byte calls a verb. -/
theorem dataVerb_of_later {p : Parser} (later : p.dc ≠ 0) (b : Note) : dataVerb p b = none := by
  unfold dataVerb
  split
  · exact if_neg later
  · exact if_neg later
  · rfl

theorem execData_later {s : State} (b : Note) (armed : s.parser.status ≠ .idle) (later : s.parser.dc ≠ 0) :
    execData b s = .next s.countData := by
  rw [execData_of_armed armed, dataVerb_of_later later, runVerb]

/-- Settles O27: the parser is armed and calls no verb, so the byte is counted and nothing else happens. -/
theorem laterDataBytesOnlyCount : Obligations.LaterDataBytesOnlyCount :=
  fun _ b armed later => ⟨_, execData_later b armed later, countsTo_incDataCount ..⟩

/-! ### Runs of later data bytes -/

/-- As long as no count on the way is 0, a run of data bytes iterates `inc` on the count and writes nothing else. -/
theorem runs_laterDataBytes {s : State} {bs : List Note} {rest : List Input} (armed : s.parser.status ≠ .idle)
    (later : ∀ j < bs.length, (incDataCount s.cfg.dcLimit)^[j] s.parser.dc ≠ 0)
    (inputs : s.inputs = bs.map (fun b => .event (encode (.data b))) ++ rest) :
    Runs bs.length s ((s.withInputs rest).withParser
      ⟨s.parser.status, (incDataCount s.cfg.dcLimit)^[bs.length] s.parser.dc⟩) := by
  induction bs generalizing s with
  | nil =>
    obtain rfl : s.inputs = rest := inputs
    exact runs_zero_iff.mpr rfl
  | cons b bs ih =>
    have first := (step_of_encode (i := .data b) rfl inputs).trans
      (execData_later b armed (later 0 (Nat.succ_pos _)))
    exact runs_succ_iff.mpr ⟨_, first, ih armed (fun j hj => later (j + 1) (Nat.succ_lt_succ hj)) rfl⟩

/-- Without a limit `inc` is the successor (R138). -/
theorem incDataCount_none_iterate (d n : Nat) : (incDataCount none)^[n] d = d + n :=
  Nat.succ_iterate d n

theorem incDataCount_some {m : Nat} (positive : 0 < m) (d : Nat) : incDataCount (some m) d = (d + 1) % m :=
  (countsTo_incDataCount (some m) d).2 m rfl positive

/-- With a limit `M` the count is kept modulo `M` (R138, 10_state.md R29). -/
theorem incDataCount_some_iterate {m d : Nat} (below : d < m) (n : Nat) :
    (incDataCount (some m))^[n] d = (d + n) % m := by
  induction n with
  | zero => exact (Nat.mod_eq_of_lt below).symm
  | succ n ih =>
    rw [Function.iterate_succ_apply', ih, incDataCount_some (Nat.zero_lt_of_lt below), Nat.mod_add_mod, Nat.add_assoc]

/-- Settles O28: a count that starts above 0 and only rises never calls a verb. -/
theorem runningStatusIsNotHonoured : Obligations.RunningStatusIsNotHonoured := by
  intro s bs rest unlimited armed nonzero inputs
  have count (n : Nat) : (incDataCount s.cfg.dcLimit)^[n] s.parser.dc = s.parser.dc + n := by
    rw [unlimited, incDataCount_none_iterate]
  have run := runs_laterDataBytes armed (fun j _ => by rw [count]; omega) inputs
  rwa [count] at run

/-- Settles O29: before the last byte the count lies between 0 and `M`, and the last byte wraps it to 0. -/
theorem countWrapsAtItsLimit : Obligations.CountWrapsAtItsLimit := by
  intro s m bs rest limit armed nonzero below total inputs
  have count (n : Nat) : (incDataCount s.cfg.dcLimit)^[n] s.parser.dc = (s.parser.dc + n) % m := by
    rw [limit, incDataCount_some_iterate below]
  have later (j : Nat) (hj : j < bs.length) : (incDataCount s.cfg.dcLimit)^[j] s.parser.dc ≠ 0 := by
    rw [count, Nat.mod_eq_of_lt (by omega)]
    omega
  have run := runs_laterDataBytes armed later inputs
  rwa [count, total, Nat.mod_self] at run

/-! ### What every BYTE leaves unchanged -/

/-- Settles O30: no verb writes a phase, a BYTE emits nothing, and no event writes the configuration or the inputs. -/
theorem bytesWriteNeitherPhaseNorSample : Obligations.BytesWriteNeitherPhaseNorSample := by
  intro s i byte
  obtain ⟨t, verb, answer, voices⟩ := exec_byte_voices byte s
  obtain ⟨_, answer', emitted⟩ := exec_byte_completes byte s
  cases answer.symm.trans answer'
  have effect : EventEffect s t := exec_effect answer
  exact ⟨t, verb, answer, voices, voices ▸ runVerb_acc verb s, emitted, effect.cfg_eq, effect.inputs_eq⟩

end Sys2Proof.Machine
end

section
/-! Proofs about exceptions (60_exceptions.md), of which the block has none: a step completes from every state that meets
the invariant, a TICK on an index outside the set, simultaneous arrivals, the allocator's silent drops, and the idle
step. -/

namespace Sys2Proof.Machine

/-! ### Every step completes -/

/-- The next input is a TICK. -/
def State.NextIsTick (s : State) : Prop := ∃ ev rest, s.inputs = .event ev :: rest ∧ isTick ev = true

theorem State.not_nextIsTick_of_idle {s : State} (h : s.inputs = []) : ¬ s.NextIsTick := by
  simp [State.NextIsTick, h]

theorem State.not_nextIsTick_of_reset {s : State} {rest : List Input} (h : s.inputs = .reset :: rest) :
    ¬ s.NextIsTick := by
  simp [State.NextIsTick, h]

theorem State.nextIsTick_iff_of_event {s : State} {ev : EventWord} {rest : List Input}
    (h : s.inputs = .event ev :: rest) : s.NextIsTick ↔ isTick ev = true := by
  simp [State.NextIsTick, h]

/-- Between `before` and `after` one sample was put on the port if `due`, and none otherwise. -/
inductive SampleWhen (due : Prop) (before : List Byte) : List Byte → Prop where
  | emitted (b : Byte) (h : due) : SampleWhen due before (before ++ [b])
  | none (h : ¬ due) : SampleWhen due before before

theorem SampleWhen.emitted_iff {due : Prop} {before after : List Byte} (h : SampleWhen due before after) :
    (∃ b, after = before ++ [b]) ↔ due := by
  cases h with
  | emitted b isDue => exact ⟨fun _ => isDue, fun _ => ⟨b, rfl⟩⟩
  | none notDue => exact ⟨fun ⟨_, longer⟩ => absurd longer (by simp), fun isDue => absurd isDue notDue⟩

theorem SampleWhen.emitted_or_same {due : Prop} {before after : List Byte} (h : SampleWhen due before after) :
    (∃ b, after = before ++ [b]) ∨ after = before := by
  cases h with
  | emitted b _ => exact .inl ⟨b, rfl⟩
  | none _ => exact .inr rfl

/-- From a state that meets the invariant every event word has an answer, and its sample is due on a TICK. -/
theorem State.Inv.exec_decode_samples {s : State} (h : s.Inv) (ev : EventWord) :
    ∃ t, exec (decode ev) s = .next t ∧ SampleWhen (isTick ev = true) s.emitted t.emitted := by
  by_cases tick : isTick ev = true
  · rw [decode_of_isTick tick]
    exact ⟨_, execTick_eq_afterTick (byteOf ev) h.configured h.fileSize h.tidxInRange, .emitted _ tick⟩
  · obtain ⟨t, answer, same⟩ := exec_byte_completes (decode_ne_tick (Bool.eq_false_of_not_eq_true tick)) s
    exact ⟨t, answer, same ▸ .none tick⟩

/-- From a state that meets the invariant a step has an answer, and its sample is due when the next input is a TICK. -/
theorem State.Inv.step_samples {s : State} (h : s.Inv) :
    ∃ t, step s = .next t ∧ SampleWhen s.NextIsTick s.emitted t.emitted := by
  rcases step_cases s with ⟨idle, hold⟩ | ⟨rest, next, reset⟩ | ⟨ev, rest, next, event⟩
  · exact ⟨s, hold, .none (State.not_nextIsTick_of_idle idle)⟩
  · have answer := powerUp_wf (s := s.withInputs rest) h.configured
    exact ⟨_, reset.trans answer, .none (State.not_nextIsTick_of_reset next)⟩
  · have taken : (s.withInputs rest).Inv := h.of_same_registers rfl rfl rfl
    obtain ⟨t, answer, samples⟩ := taken.exec_decode_samples ev
    rw [← State.nextIsTick_iff_of_event next] at samples
    exact ⟨t, event.trans answer, samples⟩

/-- Settles O48: the step's sample is due exactly on a TICK. -/
theorem everyStepCompletes : Obligations.EveryStepCompletes := by
  intro s h
  obtain ⟨t, answer, samples⟩ := h.step_samples
  exact ⟨t, answer, samples.emitted_iff, samples.emitted_or_same⟩

/-! ### A TICK on an index outside the set -/

/-- One read outside the Wavetable Set leaves the mix without a value. -/
theorem mixSum_eq_none_of_mem {c : Config} {v : Voice} {vs : List Voice} (mem : v ∈ vs)
    (unread : memReadWT c v.sampleAddress = none) : mixSum c vs = none := by
  induction mem with
  | head vs => simp only [mixSum, unread]
  | tail w _ ih =>
    simp only [mixSum, ih]
    cases memReadWT c w.sampleAddress <;> rfl

theorem execTick_of_mixSum_eq_none {s : State} (low : Byte) (h : mixSum s.cfg (s.voices.map Voice.advance) = none) :
    execTick low s = .fault .wavetableOutOfRange := by
  simp only [execTick, h]

/-- Settles O17: the advance keeps the voice's index, so the voice reads beyond the last table. -/
theorem tickStopsOnAnIndexOutsideTheSet : Obligations.TickStopsOnAnIndexOutsideTheSet := by
  intro s low v wf mem outside
  have unread : memReadWT s.cfg v.advance.sampleAddress = none := memReadWT_none wf outside v.advance.sampleIndex.isLt
  exact execTick_of_mixSum_eq_none low (mixSum_eq_none_of_mem (List.mem_map_of_mem mem) unread)

/-! ### Simultaneous arrivals -/

theorem decode_byteEvent (b : Byte) : decode (byteEvent b) = decodeByte b := by
  obtain ⟨wf, word⟩ := decodeByte_wf_and_encode b
  exact decode_of_encode_eq wf word

theorem State.deliver_together_inputs {s : State} (idle : s.inputs = []) (b : Byte) :
    (s.deliver (.together b)).inputs = [.event tickEvent, .event (byteEvent b)] := by
  simp [State.deliver, idle, Arrival.events]

/-- Settles O45: the TICK completes by the invariant and the BYTE in every state, and neither reads the inputs that
wait. -/
theorem togetherTheTickRunsFirst : Obligations.TogetherTheTickRunsFirst := by
  intro s b h idle
  obtain ⟨u, byteAnswer, -⟩ := exec_byte_completes (decodeByte_ne_tick b) s.afterTick
  refine ⟨s.afterTick, u, h.exec_tickEvent, byteAnswer, ?_⟩
  have waiting : (s.withInputs [.event (byteEvent b)]).Inv := h.of_same_registers rfl rfl rfl
  have first : step (s.deliver (.together b)) = .next (s.withInputs [.event (byteEvent b)]).afterTick :=
    (step_of_event (State.deliver_together_inputs idle b)).trans waiting.exec_tickEvent
  have taken : (s.withInputs [.event (byteEvent b)]).afterTick.withInputs [] = s.afterTick :=
    congrArg s.afterTick.withInputs idle.symm
  have second : step (s.withInputs [.event (byteEvent b)]).afterTick = .next u := by
    rw [step_of_event (rest := []) rfl, taken, decode_byteEvent, byteAnswer]
  exact runs_succ_iff.mpr ⟨_, first, runs_succ_iff.mpr ⟨u, second, runs_zero_iff.mpr rfl⟩⟩

/-! ### Silent drops -/

theorem noteOn_of_allActive {s : State} (n : Note) (busy : ∀ v ∈ s.voices, v.active = true) : noteOn n s = s := by
  have noFree : s.voices.findIdx? Voice.isFree = none :=
    List.findIdx?_eq_none_iff.mpr fun v hv => Voice.isFree_eq_false_iff.mpr (busy v hv)
  simp only [noteOn, noFree]

theorem noteOff_of_unsounded {s : State} {n : Note} (unsounded : ∀ v ∈ s.voices, v.active = true → v.note ≠ n) :
    noteOff n s = s := by
  have noMatch : s.voices.findIdx? (Voice.sounds n) = none :=
    List.findIdx?_eq_none_iff.mpr fun v hv => Voice.sounds_eq_false_iff.mpr (unsounded v hv)
  simp only [noteOff, noMatch]

/-- Settles O32: each verb's search finds no slot. -/
theorem unmetVerbsChangeNothing : Obligations.UnmetVerbsChangeNothing :=
  fun _ n => ⟨noteOn_of_allActive n, noteOff_of_unsounded⟩

/-- Counting the first data byte writes the count alone. -/
theorem State.countData_first {s : State} {st : ParserStatus} (status : s.parser.status = st)
    (count : s.parser.dc = 0) :
    ∃ d, s.countData = { s with parser := { status := st, dc := d } } ∧ CountsTo s.cfg.dcLimit 0 d :=
  ⟨incDataCount s.cfg.dcLimit 0, by rw [State.countData, status, count]; rfl, countsTo_incDataCount ..⟩

/-- Settles O33: the verb changes nothing, so the byte is only counted. -/
theorem noteWithoutAFreeVoiceIsDropped : Obligations.NoteWithoutAFreeVoiceIsDropped := by
  intro s b status count busy
  obtain ⟨d, counted, countsTo⟩ := State.countData_first status count
  refine ⟨d, (execData_first_noteOn b status count).trans ?_, countsTo⟩
  rw [noteOn_of_allActive b busy, counted]

/-- Settles O35: the verb changes nothing, so the byte is only counted. -/
theorem noteOffWithoutAMatchIsIgnored : Obligations.NoteOffWithoutAMatchIsIgnored := by
  intro s b status count unsounded
  obtain ⟨d, counted, countsTo⟩ := State.countData_first status count
  refine ⟨d, (execData_first_noteOff b status count).trans ?_, countsTo⟩
  rw [noteOff_of_unsounded unsounded, counted]

/-! ### The idle step -/

/-- Settles O43: the step's case without an input. -/
theorem idleHoldsAllState : Obligations.IdleHoldsAllState := by
  intro s idle
  simp only [step, idle]

end Sys2Proof.Machine
end

section
/-! Proofs about reset (70_reset_and_hazards.md): the level the TICKs after reset emit, and what returns the parser to
its reset value. -/

namespace Sys2Proof.Machine

/-! ### The level after reset -/

@[simp] theorem State.feed_voices (s : State) (evs : List EventWord) : (s.feed evs).voices = s.voices := rfl

@[simp] theorem State.feed_inputs (s : State) (evs : List EventWord) :
    (s.feed evs).inputs = s.inputs ++ evs.map .event := rfl

theorem State.Inv.feed {s : State} (h : s.Inv) (evs : List EventWord) : (s.feed evs).Inv :=
  h.of_same_registers rfl rfl rfl

/-- Settles O22: the reset file is all released voices, so the level is constant (O21), and each of the `N` voices adds
the entry at phase 0. -/
theorem ticksAfterResetEmitTheRestLevel : Obligations.TicksAfterResetEmitTheRestLevel := by
  intro c m wf
  have released : ∀ v ∈ List.replicate c.n Voice.reset, v.active = false := by
    intro v hv
    rw [List.eq_of_mem_replicate hv, Voice.reset_active]
  obtain ⟨t, b, run, voices, emitted, level⟩ :=
    releasedVoicesGiveAConstantLevel ((State.resetWith c).feed (List.replicate m tickEvent)) m []
      ((resetWith_inv wf).feed _) released (by simp)
  refine ⟨t, b, run, emitted, voices, ?_⟩
  rw [level, State.feed_voices, State.resetWith_voices, List.map_replicate, List.sum_replicate, smul_eq_mul]
  rfl

/-! ### What returns the parser to its reset value -/

theorem step_of_reset_parser {s t : State} {rest : List Input} (next : s.inputs = .reset :: rest)
    (answer : step s = .next t) : t.parser = Parser.reset := by
  rw [step_of_reset next] at answer
  obtain ⟨-, rfl⟩ := powerUp_next answer
  rfl

/-- The words from 0x80 to 0xFF but the two recognised status bytes are `ST_OTHER` (30_encoding.md R62). -/
theorem decode_of_otherStatus {ev : EventWord} (status : 0x80 ≤ ev.toNat) (byte : ev.toNat < 0x100)
    (notOff : ev.toNat ≠ 0x80) (notOn : ev.toNat ≠ 0x90) : decode ev = .stOther (lowSeven (byteOf ev)) := by
  have value : (byteOf ev).toNat = ev.toNat := by rw [byteOf_toNat, Nat.mod_eq_of_lt byte]
  rw [decode_of_byte (mt portBit_iff.mp (Nat.not_le.mpr byte))]
  refine decodeByte_of_otherStatus (isStatusByte_iff.mpr (value ▸ status)) ?_ ?_
  · exact fun on => notOn (value.symm.trans (congrArg BitVec.toNat on))
  · exact fun off => notOff (value.symm.trans (congrArg BitVec.toNat off))

/-- Settles O40: power-up and the reset input set the parser to its reset value, and `ST_OTHER` enters `Idle`. -/
theorem parserResetsAtPowerUpAndOnOtherStatus : Obligations.ParserResetsAtPowerUpAndOnOtherStatus := by
  refine ⟨?resetState, ?resetInput, ?otherStatus⟩
  case resetState => exact fun c => ⟨rfl, rfl⟩
  case resetInput =>
    intro s t rest next answer
    rw [step_of_reset_parser next answer]
    exact ⟨rfl, rfl⟩
  case otherStatus =>
    intro s ev status byte notOff notOn
    rw [decode_of_otherStatus status byte notOff notOn]
    exact ⟨_, exec_stOther _ s, rfl, rfl⟩

end Sys2Proof.Machine
end
